-- ==== Sys2Proof/Word.lean ====
section
/-! DEFINITION. The data words of BAPACK: the byte of every stream and buffer, and the monochrome bitmap that
the video source delivers whole (spec/00_scope.md R5, R13; spec/10_state.md R19). -/

namespace Sys2Proof

/-- One byte: bit 7 is the most significant (weight 128), bit 0 the least (R13). Every quantity is unsigned. -/
abbrev Byte := BitVec 8

/-- A Monochrome Bitmap `B`, row by row: `B[y][x]` is the pixel of row `y` and column `x`, `true` for an "on"
pixel. A pixel has two values, so a non-binary pixel cannot be expressed (R5). -/
abbrev Bitmap := List (List Bool)

end Sys2Proof
end

