-- ==== Sys2Proof/Config.lean ====
section
/-! DEFINITION. What an implementation and a run fix, and the free value: the build-time constants `Cfg`
(spec/00_scope.md R6 to R12), the environment of a run `Env` (R16), the host's input levels `Pins`
(spec/10_state.md R35), the answers of the two sources (spec/30_encoding.md R77, R78), and the draw of the cancel
input beyond what an environment lists (spec/93_implementation_defined.md U2). -/

namespace Sys2Proof

/-- The configuration record `cfg` (R6 to R9): six build-time constants. Which of them are admitted is
`Cfg.valid` (R11). -/
structure Cfg where
  /-- `W`, the bitmap width in pixels (R6). -/
  w : Nat
  /-- `H`, the bitmap height in pixels (R6). -/
  h : Nat
  /-- `SAMPLE_RATE` of the audio source (R7). -/
  sampleRate : Nat
  /-- `FRAME_RATE`, the target frame rate (R7). -/
  frameRate : Nat
  /-- `SHIFT`, the right-shift count of the Audio Quantizer (R8). -/
  shift : Nat
  /-- `DUP`, how many consecutive records carry the same video record (R9). -/
  dup : Nat
  deriving DecidableEq, Repr

/-- The terminal answer `vend` of the video source (R16). -/
inductive VideoEnd where
  | eos
  | fail
  deriving DecidableEq, Repr

/-- The terminal answer `aend` of the audio source (R16). -/
inductive AudioEnd where
  | short
  | fail
  deriving DecidableEq, Repr

/-- What `VidNext()` answers: format VRSP (R49, R77). -/
inductive VideoAnswer where
  | frame (b : Bitmap)
  | eos
  | fail
  deriving DecidableEq, Repr

/-- What `AudNext()` answers: format ARSP (R50, R78). -/
inductive AudioAnswer where
  | byte (v : Byte)
  | short
  | fail
  deriving DecidableEq, Repr

/-- The environment of one run (R16): two finite sources with their terminal answers, and the values the host
gives the cancel input at polls 0, 1, 2, …; past the end of that list the input is a free draw. -/
structure Env where
  frames : List Bitmap
  vend   : VideoEnd
  audio  : List Byte
  aend   : AudioEnd
  cancel : List Bool
  deriving DecidableEq, Repr

/-- The levels of the host inputs `reset` and `start` (R35). -/
structure Pins where
  reset : Bool
  start : Bool
  deriving DecidableEq, Repr

/-- The cancel input at a poll the environment says nothing about: "a draw at each poll, under no law" (U2, R144).
A free value: nothing can be proved of it (log entry 3). -/
opaque Config.cancelDraw : Nat → Bool

/-- The configuration that stands in `State.reset`. DESIGN CHOICE (log entry 2): the spec gives no value; these are
numbers of its own examples (8 by 8 of S3, 60 and 30 of P1, shift 2 of S1, no duplication). -/
def Config.build : Cfg := { w := 8, h := 8, sampleRate := 60, frameRate := 30, shift := 2, dup := 1 }

/-- The environment that stands in `State.reset`: empty sources, nothing said of cancel. DESIGN CHOICE (log
entry 2). -/
def Config.environment : Env := { frames := [], vend := .eos, audio := [], aend := .short, cancel := [] }

/-- The host inputs that stand in `State.reset`: `reset` has just returned to 0 and `start` is 1, the spec's launch
state (R158, R161; log entry 4). -/
def Config.pins : Pins := { reset := false, start := true }

end Sys2Proof
end

