-- ==== Sys2Proof/Syntax.lean ====
section
/-! DEFINITION. The operations of the sequencer: one constructor for each row of spec/opcode_table.json, the eleven
operations and the two final phases of spec/30_encoding.md R75. -/

namespace Sys2Proof

/-- What the phase register names (R74, R75). No operation has an operand field: all operands are fixed registers
and constants. -/
inductive Instr where
  | idle
  | fetch
  | shift
  | pad
  | stb
  | lda
  | qnt
  | wrv
  | wra
  | nxt
  | hlt
  | endPhase
  | errPhase
  deriving DecidableEq, Repr

/-- The mnemonic in capitals, as a trace line writes it (R75, R83). -/
def Instr.mnemonic : Instr → String
  | .idle => "IDLE"
  | .fetch => "FETCH"
  | .shift => "SHIFT"
  | .pad => "PAD"
  | .stb => "STB"
  | .lda => "LDA"
  | .qnt => "QNT"
  | .wrv => "WRV"
  | .wra => "WRA"
  | .nxt => "NXT"
  | .hlt => "HLT"
  | .endPhase => "END"
  | .errPhase => "ERR"

/-- Every constructor of `Instr`, in the order of the codes. -/
def Instr.all : List Instr :=
  [.idle, .fetch, .shift, .pad, .stb, .lda, .qnt, .wrv, .wra, .nxt, .hlt, .endPhase, .errPhase]

end Sys2Proof
end

