-- ==== Sys2Proof/WellFormed.lean ====
section
/-! DEFINITION. What is well formed before a machine runs: a configuration (spec/00_scope.md R11), a bitmap of the
configured size (R5), and an environment whose video source conforms (spec/70_reset_and_hazards.md R170). An
operation has no operand, so every operation is well formed. -/

namespace Sys2Proof

/-- R11: valid iff W, H, SAMPLE_RATE, FRAME_RATE >= 1, 0 <= SHIFT <= 7 and DUP is 1 or 2. -/
def Cfg.valid (c : Cfg) : Bool :=
  decide (1 ≤ c.w) && decide (1 ≤ c.h) && decide (1 ≤ c.sampleRate) && decide (1 ≤ c.frameRate)
    && decide (c.shift ≤ 7) && (decide (c.dup = 1) || decide (c.dup = 2))

/-- R5: a bitmap "has exactly W×H values": H rows of W pixels. -/
def Bitmap.fits (c : Cfg) (b : Bitmap) : Bool :=
  decide (b.length = c.h) && b.all fun row => decide (row.length = c.w)

/-- R170: the upstream delivers bitmaps of exactly W×H. Audio bytes are unconstrained: the input domain of the
quantizer is the whole unsigned 8-bit range (R100). -/
def Env.conforms (c : Cfg) (e : Env) : Bool :=
  e.frames.all (Bitmap.fits c)

/-- R74: "There are no operand fields", so there is nothing an operation could be ill formed in. -/
def Instr.wellFormed (_ : Instr) : Bool := true

end Sys2Proof
end

