-- ==== Sys2Proof/Decode.lean ====
section
/-! DEFINITION. The codes of spec/30_encoding.md: format PH4 (R74 to R76) decoded and encoded, the row list of
spec/opcode_table.json with its successors, and the answer formats VRSP and ARSP (R77, R78). -/

namespace Sys2Proof

/-- Why a code names nothing. -/
inductive DecodeError where
  /-- Phase codes 13, 14 and 15 name no operation (R76). -/
  | reservedPhase (code : BitVec 4)
  /-- Answer kind 3 of either source is never given by a conforming source (R77, R78, U6). -/
  | reservedKind
  deriving DecidableEq, Repr

/-- The operation a 4-bit phase code names (R75); the three reserved codes are rejected by name (R76). -/
def decode (code : BitVec 4) : Except DecodeError Instr :=
  match code.toNat with
  | 0 => .ok .idle
  | 1 => .ok .fetch
  | 2 => .ok .shift
  | 3 => .ok .pad
  | 4 => .ok .stb
  | 5 => .ok .lda
  | 6 => .ok .qnt
  | 7 => .ok .wrv
  | 8 => .ok .wra
  | 9 => .ok .nxt
  | 10 => .ok .hlt
  | 11 => .ok .endPhase
  | 12 => .ok .errPhase
  | _ => .error (.reservedPhase code)

/-- The 4-bit code of an operation, written as the spec's binary column has it (R75). -/
def encode : Instr → BitVec 4
  | .idle => 0b0000#4
  | .fetch => 0b0001#4
  | .shift => 0b0010#4
  | .pad => 0b0011#4
  | .stb => 0b0100#4
  | .lda => 0b0101#4
  | .qnt => 0b0110#4
  | .wrv => 0b0111#4
  | .wra => 0b1000#4
  | .nxt => 0b1001#4
  | .hlt => 0b1010#4
  | .endPhase => 0b1011#4
  | .errPhase => 0b1100#4

/-- A row of spec/opcode_table.json: an operation, the pattern `match` under the mask 0xF, and its `successors`. -/
structure OpRow where
  instr : Instr
  pattern : Nat
  mask : Nat
  successors : List Instr
  deriving DecidableEq, Repr

/-- The thirteen rows of spec/opcode_table.json in their order; `successors` is that column, which is also the first
and third column of the transition table (spec/42_multiplexer.md R119). -/
def opTable : List OpRow :=
  [⟨.idle, 0x0, 0xF, [.idle, .fetch]⟩,
   ⟨.fetch, 0x1, 0xF, [.shift, .hlt, .errPhase]⟩,
   ⟨.shift, 0x2, 0xF, [.shift, .pad, .stb]⟩,
   ⟨.pad, 0x3, 0xF, [.pad, .stb]⟩,
   ⟨.stb, 0x4, 0xF, [.shift, .lda, .wrv]⟩,
   ⟨.lda, 0x5, 0xF, [.qnt, .hlt, .errPhase]⟩,
   ⟨.qnt, 0x6, 0xF, [.lda, .wrv]⟩,
   ⟨.wrv, 0x7, 0xF, [.wrv, .wra, .nxt]⟩,
   ⟨.wra, 0x8, 0xF, [.wra, .nxt]⟩,
   ⟨.nxt, 0x9, 0xF, [.fetch, .lda, .wrv]⟩,
   ⟨.hlt, 0xA, 0xF, [.endPhase]⟩,
   ⟨.endPhase, 0xB, 0xF, []⟩,
   ⟨.errPhase, 0xC, 0xF, []⟩]

/-- The operations that may come next (R119, R113, R114: a final phase has none but by reset). -/
def Instr.successors (i : Instr) : List Instr :=
  match opTable.find? (fun r => decide (r.instr = i)) with
  | some r => r.successors
  | none => []

/-- The operation of a table word: format PH4 has four bits, so every bit above them must be 0 (log entry 14). -/
def decodeTableWord (nbits w : Nat) : Option Instr :=
  let v := w % 2 ^ nbits
  if v < 16 then
    match decode (BitVec.ofNat 4 v) with
    | .ok i => some i
    | .error _ => none
  else none

/-- The 2-bit kind of a video answer (R77). -/
def VideoAnswer.kind : VideoAnswer → BitVec 2
  | .frame _ => 0b00#2
  | .eos => 0b01#2
  | .fail => 0b10#2

/-- The video answer of a 2-bit kind and a bitmap payload (R77); kind 3 is rejected by name. -/
def videoAnswerOf (kind : BitVec 2) (payload : Bitmap) : Except DecodeError VideoAnswer :=
  match kind.toNat with
  | 0 => .ok (.frame payload)
  | 1 => .ok .eos
  | 2 => .ok .fail
  | _ => .error .reservedKind

/-- The 2-bit kind of an audio answer (R78). -/
def AudioAnswer.kind : AudioAnswer → BitVec 2
  | .byte _ => 0b00#2
  | .short => 0b01#2
  | .fail => 0b10#2

/-- The audio answer of a 2-bit kind and a byte of payload (R78); kind 3 is rejected by name. -/
def audioAnswerOf (kind : BitVec 2) (payload : Byte) : Except DecodeError AudioAnswer :=
  match kind.toNat with
  | 0 => .ok (.byte payload)
  | 1 => .ok .short
  | 2 => .ok .fail
  | _ => .error .reservedKind

end Sys2Proof
end

