-- ==== Sys2Proof/Machine/State.lean ====
section
/-! DEFINITION. The state of BAPACK (spec/10_state.md R18 to R41) as plain data, the reasons a step can stop, and
the reset state (R45, R158). The parameters of a run (configuration, environment, host input levels) stand beside
the block's registers; no operation writes them (log entry 1). -/

namespace Sys2Proof.Machine

/-- `STATUS.CAUSE`: why the run ended (R33). Codes 6 and 7 are never written, so they are not representable. -/
inductive Cause where
  /-- NONE, code 0: the run has not ended. -/
  | none
  /-- VEND, code 1: the video source is exhausted. -/
  | vend
  /-- AEND, code 2: the audio source is exhausted. -/
  | aend
  /-- CANC, code 3: cancelled. -/
  | canc
  /-- VFAIL, code 4: decode failure of the video source. -/
  | vfail
  /-- AFAIL, code 5: decode failure of the audio source. -/
  | afail
  deriving DecidableEq, Repr

/-- The two faults of the block (R138: "a model's fault type has exactly two constructors"). Taking one is a step
to the phase ERR (R147), not a stop of the model. -/
inductive FaultEvent where
  | videoDecodeFailure
  | audioDecodeFailure
  deriving DecidableEq, Repr

/-- The three normal terminations of the block (R138). -/
inductive Termination where
  | videoExhausted
  | audioExhausted
  | cancelled
  deriving DecidableEq, Repr

/-- The status register (R32). Bits 3 and 7 are hard-wired to 0 and hold nothing; `Status.word` gives the eight bits
the host reads (log entry 17). -/
structure Status where
  busy  : Bool
  done  : Bool
  errf  : Bool
  cause : Cause
  deriving DecidableEq, Repr

/-- A byte buffer of the block: (index, byte) pairs, indexes strictly rising; an unlisted cell holds no value (R43). -/
abbrev Memory := List Host.Cell

/-- The three internal buffers (R19, R25, R28). -/
inductive BufferId where
  | fb
  | rb
  | ab
  deriving DecidableEq, Repr

/-- The state of the machine. -/
structure State where
  /-- `cfg`, constant for the life of the block (R12, R34). -/
  cfg : Cfg
  /-- The environment's contents: sources, terminal answers, cancel values (R16). -/
  env : Env
  /-- The host inputs `reset` and `start` (R35). -/
  pins : Pins
  /-- `PH`, the phase register, 4 bits (R18). -/
  ph : BitVec 4
  /-- `FB`, the frame buffer, written whole; no value after reset (R19, R43). -/
  fb : Option Bitmap
  /-- `CX`, the column counter (R20). -/
  cx : Nat
  /-- `RY`, the row counter (R21). -/
  ry : Nat
  /-- `SR`, the shift register, 8 bits (R22). -/
  sr : Byte
  /-- `BC`, the bit counter (R23). -/
  bc : Nat
  /-- `BI`, the byte index (R24). -/
  bi : Nat
  /-- `RB`, the record buffer, VIDEO_SIZE bytes (R25). -/
  rb : Memory
  /-- `SMP`, the sample register, 8 bits (R26). -/
  smp : Byte
  /-- `AC`, the audio counter (R27). -/
  ac : Nat
  /-- `AB`, the audio buffer, N bytes (R28). -/
  ab : Memory
  /-- `OC`, the output counter (R29). -/
  oc : Nat
  /-- `DC`, the duplication counter (R30). -/
  dc : Nat
  /-- `RC`, the record counter, 32 bits (R31). -/
  rc : BitVec 32
  /-- `STATUS` (R32). -/
  status : Status
  /-- `VCUR`, the video read cursor (R36). -/
  vcur : Nat
  /-- `ACUR`, the audio read cursor (R37). -/
  acur : Nat
  /-- `OUT`, the output stream so far; `WCUR` is its length (R38). -/
  out : List Byte
  /-- `OPEN`, 1 while the output stream is open (R39). -/
  isOpen : Bool
  /-- `POLL`, how many cancel polls have been executed (R40). -/
  poll : Nat
  deriving DecidableEq, Repr

/-- Why the machine stops. None of these is a fault of the block (those are `FaultEvent`, taken as a step). -/
inductive Fault where
  /-- SHIFT, WRV or WRA read a buffer element that holds no value: "it should fault rather than return a value"
  (R43, U7). No run reaches it. Safe. -/
  | noValue (b : BufferId)
  /-- SHIFT, STB, QNT, WRV or WRA addressed an element the buffer does not have (R19, R25, R28; log entry 8). No run
  reaches it. Safe. -/
  | noSuchCell (b : BufferId)
  /-- WRV or WRA wrote the output while it is closed: `OutWrite` requires OPEN = 1 (R51; log entry 9). No run reaches
  it. Safe. -/
  | outputClosed
  /-- END: the final phase of a normal end has no operation and no step (R113; log entry 6). A stuck state. Safe. -/
  | stuckEnd
  /-- ERR: the final phase of a fault has no operation and no step (R114; log entry 6). A stuck state. Safe. -/
  | stuckErr
  deriving DecidableEq, Repr

/-- Why the model gives a state no meaning. -/
inductive Refusal where
  /-- Raised by `exec` for an instruction that has no meaning yet (none is left). Safe. -/
  | notModelled (mnemonic : String)
  /-- Raised by `step`: "a model refuses an invalid configuration; it gives it no behaviour" (R11, U9, U10). Safe. -/
  | invalidConfig
  /-- Raised by `step`: the video source holds something other than W×H bitmaps, which the port cannot carry (R5,
  R170; log entry 10). Safe. -/
  | nonconformingSource
  /-- Raised by `step`: PH holds 13, 14 or 15; the model "must refuse a state holding one of them" (R76, U5). Safe. -/
  | reservedPhase (code : BitVec 4)
  deriving DecidableEq, Repr

/-- The reset state of a block built with `c`, in an environment `e`, under input levels `p` (R45, R158): PH = IDLE,
every counter 0, SR = SMP = 0, RC = 0, STATUS = 0, OPEN = 0, buffers without value, OUT empty, cursors 0. -/
def State.resetWith (c : Cfg) (e : Env) (p : Pins) : State :=
  { cfg := c, env := e, pins := p, ph := encode .idle,
    fb := none, cx := 0, ry := 0, sr := 0, bc := 0, bi := 0, rb := [],
    smp := 0, ac := 0, ab := [], oc := 0, dc := 0, rc := 0,
    status := { busy := false, done := false, errf := false, cause := .none },
    vcur := 0, acur := 0, out := [], isOpen := false, poll := 0 }

/-- The machine right after reset: R45 for the block; the configuration, environment and input levels are named in
log entries 2 and 4, and no statement rests on them. -/
def State.reset : State := State.resetWith Config.build Config.environment Config.pins

/-- "The model's launch state is: the reset state, start = 1" (R161), for any configuration and environment. -/
def State.launch (c : Cfg) (e : Env) : State := State.resetWith c e { reset := false, start := true }

end Sys2Proof.Machine
end

