-- ==== Sys2Proof/Machine/Flags.lean ====
section
/-! DEFINITION. The status register's computations: the cause codes (spec/10_state.md R33), the eight bits the host
reads (R32), and the four ways an operation writes STATUS (IDLE at start, FETCH and LDA on a normal end, HLT, fault
entry). The block has no condition codes (R32). -/

namespace Sys2Proof.Machine

/-- The 3-bit code of a cause (R33). -/
def Cause.code : Cause → BitVec 3
  | .none => 0
  | .vend => 1
  | .aend => 2
  | .canc => 3
  | .vfail => 4
  | .afail => 5

/-- The cause of a 3-bit code; 6 and 7 are reserved and name none (R33). -/
def Cause.ofCode (code : BitVec 3) : Option Cause :=
  match code.toNat with
  | 0 => some .none
  | 1 => some .vend
  | 2 => some .aend
  | 3 => some .canc
  | 4 => some .vfail
  | 5 => some .afail
  | _ => Option.none

/-- The cause code a fault writes (R138, R147). -/
def FaultEvent.cause : FaultEvent → Cause
  | .videoDecodeFailure => .vfail
  | .audioDecodeFailure => .afail

/-- The cause code a normal termination writes (R138, R141 to R143). -/
def Termination.cause : Termination → Cause
  | .videoExhausted => .vend
  | .audioExhausted => .aend
  | .cancelled => .canc

/-- STATUS as the host reads it (R32): bit 0 BUSY, bit 1 DONE, bit 2 ERRF, bit 3 zero, bits 6:4 CAUSE, bit 7 zero. -/
def Status.word (t : Status) : Byte :=
  0#1 ++ t.cause.code ++ 0#1 ++ BitVec.ofBool t.errf ++ BitVec.ofBool t.done ++ BitVec.ofBool t.busy

/-- IDLE at start: BUSY <- 1 (R107). -/
def Status.begin (t : Status) : Status := { t with busy := true }

/-- FETCH or LDA on a normal end: CAUSE <- the termination's code (R148). -/
def Status.terminate (t : Status) (e : Termination) : Status := { t with cause := e.cause }

/-- HLT: BUSY <- 0, DONE <- 1; CAUSE is not changed (R112). -/
def Status.finish (t : Status) : Status := { t with busy := false, done := true }

/-- Fault entry: BUSY <- 0, ERRF <- 1, CAUSE <- the fault's code (R147). -/
def Status.fail (t : Status) (e : FaultEvent) : Status :=
  { t with busy := false, errf := true, cause := e.cause }

end Sys2Proof.Machine
end

