-- ==== Sys2Proof/Machine/Operands.lean ====
section
/-! DEFINITION. Operand assembly (spec/30_encoding.md R80): the constants derived from the configuration
(spec/00_scope.md R10), the operand of SHIFT, the operand of QNT, the cancel value of a poll, and the byte buffers'
one-cell read and write. -/

namespace Sys2Proof.Machine

/-- `NPIX = W*H` (R10). -/
def npix (c : Cfg) : Nat := c.w * c.h

/-- `VIDEO_SIZE = ceil(W*H / 8) = (W*H + 7) div 8` bytes (R10). -/
def videoSize (c : Cfg) : Nat := (npix c + 7) / 8

/-- `NPAD = 8*VIDEO_SIZE - NPIX`, the number of pad bits (R10). -/
def npad (c : Cfg) : Nat := 8 * videoSize c - npix c

/-- `N = SAMPLE_RATE div FRAME_RATE`, the number of samples in one Audio Chunk, which is `AUDIO_SIZE` (R7, R10). -/
def chunkLen (c : Cfg) : Nat := c.sampleRate / c.frameRate

/-- `RECORD_SIZE = VIDEO_SIZE + AUDIO_SIZE` bytes (R10). -/
def recordSize (c : Cfg) : Nat := videoSize c + chunkLen c

/-- `BIT_DEPTH = 8 - SHIFT` (R8). -/
def bitDepth (c : Cfg) : Nat := 8 - c.shift

/-- `(SR << 1) | b` on the 8-bit shift register: the old bit 7 is dropped, `b` enters at bit 0 (R14, R93, R94). -/
def shiftIn (sr : Byte) (b : Bool) : Byte := (sr <<< 1) ||| (if b then 1#8 else 0#8)

/-- The next pixel's column and row: the row index runs fastest and carries into the column (R92, R93). -/
def advancePixel (c : Cfg) (cx ry : Nat) : Nat × Nat :=
  if ry + 1 = c.h then (cx + 1, 0) else (cx, ry + 1)

/-- `quant(s) = s >> SHIFT`, the logical right shift (R14, R100). -/
def quant (c : Cfg) (v : Byte) : Byte := v >>> c.shift

/-- `FB[RY][CX]`, the operand of SHIFT: one cell of the W×H frame buffer (R19, R80). The buffer has no cell outside
rows 0..H-1 and columns 0..W-1 (log entry 8), and holds no value before FETCH has written it (R43). -/
def pixelOperand (c : Cfg) (fb : Option Bitmap) (ry cx : Nat) : Except Fault Bool :=
  match fb with
  | none => .error (.noValue .fb)
  | some b =>
    if ry < c.h ∧ cx < c.w then
      match b[ry]? with
      | none => .error (.noSuchCell .fb)
      | some row =>
        match row[cx]? with
        | none => .error (.noSuchCell .fb)
        | some p => .ok p
    else .error (.noSuchCell .fb)

/-- `cancel(p)`: the value of the cancel input at poll `p` (R16, R144); past what the environment lists it is a free
draw (U2; log entry 3). -/
def cancelAt (e : Env) (p : Nat) : Bool :=
  match e.cancel[p]? with
  | some b => b
  | none => Config.cancelDraw p

/-- The value a cell holds, if it holds one. -/
def Memory.read : Memory → Nat → Option Byte
  | [], _ => none
  | (b, v) :: m, a => if a = b then some v else Memory.read m a

/-- The buffer with cell `a` holding `v`, in canonical form. -/
def Memory.write : Memory → Nat → Byte → Memory
  | [], a, v => [(a, v)]
  | (b, w) :: m, a, v =>
    if a < b then (a, v) :: (b, w) :: m
    else if a = b then (a, v) :: m
    else (b, w) :: Memory.write m a v

/-- The canonical form: indexes strictly rising. An unlisted cell has no value, so no entry can equal one. -/
def Memory.wf : Memory → Bool
  | [] => true
  | [_] => true
  | x :: y :: m => decide (x.1 < y.1) && Memory.wf (y :: m)

/-- Cell `i` of a buffer of `size` cells, or the reason it cannot be read (R43; log entries 7 and 8). -/
def readCell (b : BufferId) (size : Nat) (m : Memory) (i : Nat) : Except Fault Byte :=
  if i < size then
    match Memory.read m i with
    | some v => .ok v
    | none => .error (.noValue b)
  else .error (.noSuchCell b)

/-- A buffer of `size` cells with cell `i` holding `v` (log entry 8 for an index it does not have). -/
def writeCell (b : BufferId) (size : Nat) (m : Memory) (i : Nat) (v : Byte) : Except Fault Memory :=
  if i < size then .ok (Memory.write m i v) else .error (.noSuchCell b)

end Sys2Proof.Machine
end

