-- ==== Sys2Proof/Machine/Ops.lean ====
section
/-! DEFINITION. The named operations over the state that the meanings share: writing the phase (spec/10_state.md
R18), the stream primitives of spec/20_memory.md R49 to R51, the cancel poll (spec/60_exceptions.md R144), entering a
normal end (R148) and taking a fault (R147), reset (spec/70_reset_and_hazards.md R158), what a state must meet to
have a step, and the host's side (spec/10_state.md R46). -/

namespace Sys2Proof.Machine

/-- `PH <- X`: every operation writes the next code as its last effect (R15, R18). -/
def State.goto (s : State) (i : Instr) : State := { s with ph := encode i }

/-- What the video source answers: the next frame, or its terminal answer for ever after (R49). -/
def videoAnswer (s : State) : VideoAnswer :=
  match s.env.frames[s.vcur]? with
  | some b => .frame b
  | none =>
    match s.env.vend with
    | .eos => .eos
    | .fail => .fail

/-- `VidNext()` (R49): FRAME moves VCUR on by one; EOS and FAIL leave it. -/
def vidNext (s : State) : VideoAnswer × State :=
  match videoAnswer s with
  | .frame b => (.frame b, { s with vcur := s.vcur + 1 })
  | .eos => (.eos, s)
  | .fail => (.fail, s)

/-- What the audio source answers: the next byte, or its terminal answer for ever after (R50). -/
def audioAnswer (s : State) : AudioAnswer :=
  match s.env.audio[s.acur]? with
  | some v => .byte v
  | none =>
    match s.env.aend with
    | .short => .short
    | .fail => .fail

/-- `AudNext()` (R50): BYTE moves ACUR on by one; SHORT and FAIL leave it. -/
def audNext (s : State) : AudioAnswer × State :=
  match audioAnswer s with
  | .byte v => (.byte v, { s with acur := s.acur + 1 })
  | .short => (.short, s)
  | .fail => (.fail, s)

/-- `OutWrite(v)` (R51): requires OPEN = 1 (log entry 9 for OPEN = 0) and appends one byte; the sink never fails. -/
def outWrite (s : State) (v : Byte) : Except Fault State :=
  if s.isOpen = true then .ok { s with out := s.out ++ [v] } else .error .outputClosed

/-- `OutClose()` (R51): OPEN <- 0. -/
def State.outClose (s : State) : State := { s with isOpen := false }

/-- `CancelPoll()` (R144): the cancel value of this poll; POLL moves on by one. -/
def cancelPoll (s : State) : Bool × State :=
  (cancelAt s.env s.poll, { s with poll := s.poll + 1 })

/-- The detecting half of a normal end (R148): CAUSE is written and PH <- HLT; HLT then closes the output. -/
def State.terminate (s : State) (e : Termination) : State :=
  { s with status := s.status.terminate e, ph := encode .hlt }

/-- TAKING A FAULT, `raise X` (R147): the output is closed, BUSY <- 0, ERRF <- 1, CAUSE <- the code, PH <- ERR, in the
raising step; nothing is saved and no other register changes. There is no return from it (R150). -/
def State.raise (s : State) (e : FaultEvent) : State :=
  { s with isOpen := false, status := s.status.fail e, ph := encode .errPhase }

/-- What a `reset` input of 1 does in any phase (R158): the block takes the reset state; the constants (R159), the
environment's contents and the input levels stay (log entry 13). -/
def State.resetNow (s : State) : State := State.resetWith s.cfg s.env s.pins

/-- Why a state has no behaviour, before its phase is looked at: an invalid configuration (R11) or a video source
that does not conform (R5, R170). -/
def setupRefusal (s : State) : Option Refusal :=
  if s.cfg.valid = true then
    if s.env.conforms s.cfg = true then none else some .nonconformingSource
  else some .invalidConfig

/-- The operation the next step executes: PH alone selects it (R18). A reserved code is refused (R76). -/
def selected (s : State) : Except Refusal Instr :=
  match decode s.ph with
  | .ok i => .ok i
  | .error _ => .error (.reservedPhase s.ph)

/-- The state whose phase register holds the table word `w` (the word's bits above bit 3 are 0). -/
def State.placeWord (s : State) (nbits w : Nat) : State :=
  { s with ph := BitVec.ofNat 4 (w % 2 ^ nbits) }

/-- The host reads STATUS, at any time (R46, R152). -/
def hostStatus (s : State) : Byte := s.status.word

/-- The host reads RC, at any time (R31, R46). -/
def hostRecordCount (s : State) : BitVec 32 := s.rc

/-- The host drives its inputs `reset` and `start` (R35): it changes nothing else (log entry 4). -/
def hostDrive (s : State) (p : Pins) : State := { s with pins := p }

end Sys2Proof.Machine
end

