-- ==== Sys2Proof/Machine/Audio.lean ====
section
/-! DEFINITION. The Audio Quantizer's operations LDA and QNT (spec/41_audio_quantizer.md R101, R102). -/

namespace Sys2Proof.Machine

/-- LDA, load one audio sample (R101): a byte goes to SMP; a short read ends the run normally and drops the chunk; a
failure takes the fault AudioDecodeFailure (R140). -/
def execLda (s : State) : Host.Outcome State Fault Refusal :=
  match audNext s with
  | (.byte v, s') => .next ({ s' with smp := v }.goto .qnt)
  | (.short, s') => .next ({ s' with ac := 0 }.terminate .audioExhausted)
  | (.fail, s') => .next (s'.raise .audioDecodeFailure)

/-- QNT, quantize and store (R102): AB[AC] <- SMP >> SHIFT. -/
def execQnt (s : State) : Host.Outcome State Fault Refusal :=
  match writeCell .ab (chunkLen s.cfg) s.ab s.ac (quant s.cfg s.smp) with
  | .error e => .fault e
  | .ok ab' =>
    let s' := { s with ab := ab', ac := s.ac + 1 }
    .next (s'.goto (if s'.ac = chunkLen s.cfg then .wrv else .lda))

end Sys2Proof.Machine
end

