-- ==== Sys2Proof/Machine/Multiplexer.lean ====
section
/-! DEFINITION. The Stream Multiplexer's operations IDLE, FETCH, WRV, WRA, NXT, HLT and the final phases END and ERR
(spec/42_multiplexer.md R107 to R114). -/

namespace Sys2Proof.Machine

/-- IDLE, wait for start (R107): with start = 0 nothing changes. -/
def execIdle (s : State) : Host.Outcome State Fault Refusal :=
  if s.pins.start = true then
    .next ({ s with status := s.status.begin, isOpen := true }.goto .fetch)
  else .next (s.goto .idle)

/-- What FETCH does with a delivered frame (R108): FB <- B and every counter of the frame to 0. -/
def State.loadFrame (s : State) (b : Bitmap) : State :=
  { s with fb := some b, cx := 0, ry := 0, sr := 0, bc := 0, bi := 0, ac := 0, oc := 0, dc := 0 }

/-- FETCH, poll cancel and get the next frame (R108): cancel comes first (R146), and then the source is not asked. -/
def execFetch (s : State) : Host.Outcome State Fault Refusal :=
  let (c, s₁) := cancelPoll s
  .next (if c = true then s₁.terminate .cancelled
    else match vidNext s₁ with
      | (.frame b, s₂) => (s₂.loadFrame b).goto .shift
      | (.eos, s₂) => s₂.terminate .videoExhausted
      | (.fail, s₂) => s₂.raise .videoDecodeFailure)

/-- WRV, write one byte of the video record (R109). -/
def execWrv (s : State) : Host.Outcome State Fault Refusal :=
  match readCell .rb (videoSize s.cfg) s.rb s.oc with
  | .error e => .fault e
  | .ok v =>
    match outWrite s v with
    | .error e => .fault e
    | .ok s' =>
      if s.oc + 1 = videoSize s.cfg then
        .next ({ s' with oc := 0 }.goto (if chunkLen s.cfg = 0 then .nxt else .wra))
      else .next ({ s' with oc := s.oc + 1 }.goto .wrv)

/-- WRA, write one byte of the audio chunk (R110). -/
def execWra (s : State) : Host.Outcome State Fault Refusal :=
  match readCell .ab (chunkLen s.cfg) s.ab s.oc with
  | .error e => .fault e
  | .ok v =>
    match outWrite s v with
    | .error e => .fault e
    | .ok s' =>
      if s.oc + 1 = chunkLen s.cfg then .next ({ s' with oc := 0 }.goto .nxt)
      else .next ({ s' with oc := s.oc + 1 }.goto .wra)

/-- NXT, count the record and choose what follows (R111): the duplication controller. RC wraps modulo 2^32. -/
def execNxt (s : State) : Host.Outcome State Fault Refusal :=
  let s' := { s with rc := s.rc + 1, ac := 0 }
  if s.dc + 1 = s.cfg.dup then .next ({ s' with dc := 0 }.goto .fetch)
  else .next ({ s' with dc := s.dc + 1 }.goto (if chunkLen s.cfg = 0 then .wrv else .lda))

/-- HLT, close the output and end normally (R112). CAUSE was written by the operation that led here. -/
def execHlt (s : State) : Host.Outcome State Fault Refusal :=
  .next ({ s.outClose with status := s.status.finish }.goto .endPhase)

/-- END (R113): "it has no operation and no step"; nothing changes until reset, which `step` takes (R158). -/
def execEnd (_ : State) : Host.Outcome State Fault Refusal := .fault .stuckEnd

/-- ERR (R114): "it has no operation and no step"; nothing changes until reset, which `step` takes (R158). -/
def execErr (_ : State) : Host.Outcome State Fault Refusal := .fault .stuckErr

end Sys2Proof.Machine
end

