-- ==== Sys2Proof/Machine/Packer.lean ====
section
/-! DEFINITION. The Bit Packer's operations SHIFT, PAD and STB (spec/40_packer.md R93 to R95). -/

namespace Sys2Proof.Machine

/-- SHIFT, shift one pixel in (R93). The byte being full wins over the frame being used up. -/
def execShift (s : State) : Host.Outcome State Fault Refusal :=
  match pixelOperand s.cfg s.fb s.ry s.cx with
  | .error e => .fault e
  | .ok b =>
    let p := advancePixel s.cfg s.cx s.ry
    let s' := { s with sr := shiftIn s.sr b, bc := s.bc + 1, cx := p.1, ry := p.2 }
    .next (s'.goto (if s'.bc = 8 then .stb else if s'.cx = s.cfg.w then .pad else .shift))

/-- PAD, shift one zero in (R94). -/
def execPad (s : State) : Host.Outcome State Fault Refusal :=
  let s' := { s with sr := shiftIn s.sr false, bc := s.bc + 1 }
  .next (s'.goto (if s'.bc = 8 then .stb else .pad))

/-- STB, store the byte (R95): RB[BI] <- SR, and on to the next pixel, the audio, or (N = 0) the commit. -/
def execStb (s : State) : Host.Outcome State Fault Refusal :=
  match writeCell .rb (videoSize s.cfg) s.rb s.bi s.sr with
  | .error e => .fault e
  | .ok rb' =>
    let s' := { s with rb := rb', bi := s.bi + 1, sr := 0, bc := 0 }
    .next (s'.goto (if s.cx = s.cfg.w then (if chunkLen s.cfg = 0 then .wrv else .lda) else .shift))

end Sys2Proof.Machine
end

