-- ==== Sys2Proof/Machine/Dispatch.lean ====
section
/-! DEFINITION. One arm per operation of spec/30_encoding.md R75. -/

namespace Sys2Proof.Machine

def exec (i : Instr) (s : State) : Host.Outcome State Fault Refusal :=
  match i with
  | .idle => Sys2Proof.Machine.execIdle s
  | .fetch => Sys2Proof.Machine.execFetch s
  | .shift => Sys2Proof.Machine.execShift s
  | .pad => Sys2Proof.Machine.execPad s
  | .stb => Sys2Proof.Machine.execStb s
  | .lda => Sys2Proof.Machine.execLda s
  | .qnt => Sys2Proof.Machine.execQnt s
  | .wrv => Sys2Proof.Machine.execWrv s
  | .wra => Sys2Proof.Machine.execWra s
  | .nxt => Sys2Proof.Machine.execNxt s
  | .hlt => Sys2Proof.Machine.execHlt s
  | .endPhase => Sys2Proof.Machine.execEnd s
  | .errPhase => Sys2Proof.Machine.execErr s

end Sys2Proof.Machine
end

