-- ==== Sys2Proof/Machine/Step.lean ====
section
/-! DEFINITION. One step of the sequencer: the operation PH selects (spec/10_state.md R18), unless the host input
`reset` is 1, which overrides every operation (spec/70_reset_and_hazards.md R158). -/

namespace Sys2Proof.Machine

/-- One step. A state with an invalid configuration or a non-conforming source has none (R11, R170), nor has one
whose PH holds a reserved code (R76; log entry 5 for reset in such a state). -/
def step (s : State) : Host.Outcome State Fault Refusal :=
  match setupRefusal s with
  | some r => .refused r
  | none =>
    match selected s with
    | .error r => .refused r
    | .ok i => if s.pins.reset = true then .next s.resetNow else exec i s

/-- Nothing is fetched from a memory: PH holds the code of the operation the next step executes (R18, R62), so the
word is stored there (log entry 15). -/
def State.withFetchWord (s : State) (nbits w : Nat) : State := s.placeWord nbits w

end Sys2Proof.Machine
end

