-- ==== Sys2Proof/Machine/Stream.lean ====
section
/-! DEFINITION. What a whole run produces, as functions of the configuration and the inputs alone: the packed record
(spec/40_packer.md R91), the ideal record and stream and the run's count, cause and cursors
(spec/43_stream_contract.md R122 to R127), the address map of the output (spec/20_memory.md R57), and the reference
Reader (R130, R132), which is no part of the block. The step machine does not use them. -/

namespace Sys2Proof.Machine

/-- `B[y][x]`; a place the bitmap does not have reads as off (log entry 21: never asked of a bitmap that fits). -/
def pixelAt (b : Bitmap) (y x : Nat) : Bool :=
  match b[y]? with
  | none => false
  | some row => (row[x]?).getD false

/-- `bit(i)` of R91: traversal position `i` is the pixel of column `i div H`, row `i mod H`; pad bits are 0 (R68, R69). -/
def packBit (c : Cfg) (b : Bitmap) (i : Nat) : Bool :=
  if i < npix c then pixelAt b (i % c.h) (i / c.h) else false

/-- `pack(B)[j]`, the sum over t = 0..7 of bit(8j + t) * 2^(7 - t) (R91). -/
def packByte (c : Cfg) (b : Bitmap) (j : Nat) : Byte :=
  BitVec.ofNat 8 (((List.range 8).map fun t => (packBit c b (8 * j + t)).toNat * 2 ^ (7 - t)).sum)

/-- `pack(B)`, the Packed Video Record: VIDEO_SIZE bytes (R67, R91). -/
def pack (c : Cfg) (b : Bitmap) : List Byte := (List.range (videoSize c)).map (packByte c b)

/-- The Audio Chunk of record `k`: samples k*N to k*N + N - 1, quantized, one byte each (R70, R71, R106). -/
def audioChunk (c : Cfg) (e : Env) (k : Nat) : List Byte :=
  (List.range (chunkLen c)).map fun i => quant c (e.audio.getD (k * chunkLen c + i) 0)

/-- The bitmap of record `k`: frame k div DUP (R122). -/
def recordFrame (c : Cfg) (e : Env) (k : Nat) : Bitmap := e.frames.getD (k / c.dup) []

/-- `srec(k)`, the ideal record: one Packed Video Record and one Audio Chunk (R72, R122). -/
def srec (c : Cfg) (e : Env) (k : Nat) : List Byte := pack c (recordFrame c e k) ++ audioChunk c e k

/-- `stream(K) = srec(0) ++ … ++ srec(K-1)` (R73, R123). -/
def stream (c : Cfg) (e : Env) (k : Nat) : List Byte := (List.range k).flatMap (srec c e)

/-- `pc`, the least p in 0..NF with cancel(p) = 1, if there is one (R124). -/
def cancelPoint (e : Env) : Option Nat := (List.range (e.frames.length + 1)).find? (cancelAt e)

/-- `NFe`, the frames actually delivered and used (R124). -/
def usableFrames (e : Env) : Nat := (cancelPoint e).getD e.frames.length

/-- `Kv`, the records the video side allows (R124). -/
def videoRecords (c : Cfg) (e : Env) : Nat := c.dup * usableFrames e

/-- `Ka`, the whole chunks the audio side has; `none` is the spec's "infinite", at N = 0 (R124). -/
def audioRecords (c : Cfg) (e : Env) : Option Nat :=
  if chunkLen c = 0 then none else some (e.audio.length / chunkLen c)

/-- `Kv <= Ka`: the video side ends the run (R125). -/
def videoSideEnds (c : Cfg) (e : Env) : Bool :=
  match audioRecords c e with
  | none => true
  | some ka => decide (videoRecords c e ≤ ka)

/-- `K = min(Kv, Ka)`, the record count of a run (R124). -/
def recordCount (c : Cfg) (e : Env) : Nat :=
  match audioRecords c e with
  | none => videoRecords c e
  | some ka => min (videoRecords c e) ka

/-- The cause of the end (R125). -/
def endCause (c : Cfg) (e : Env) : Cause :=
  if videoSideEnds c e = true then
    match cancelPoint e with
    | some _ => .canc
    | none =>
      match e.vend with
      | .eos => .vend
      | .fail => .vfail
  else
    match e.aend with
    | .short => .aend
    | .fail => .afail

/-- Is this cause a fault's, so that the run ends in ERR (R125, R138)? -/
def Cause.isFault : Cause → Bool
  | .vfail => true
  | .afail => true
  | .none => false
  | .vend => false
  | .aend => false
  | .canc => false

/-- The final phase a cause leads to (R125). -/
def Cause.finalPhase (x : Cause) : Instr := if x.isFault = true then .errPhase else .endPhase

/-- STATUS at the end of a run with this cause: DONE or ERRF, and the cause (R126). -/
def Cause.finalStatus (x : Cause) : Status :=
  { busy := false, done := !x.isFault, errf := x.isFault, cause := x }

/-- VCUR at the end (R127). -/
def finalVcur (c : Cfg) (e : Env) : Nat :=
  if videoSideEnds c e = true then usableFrames e else recordCount c e / c.dup + 1

/-- ACUR at the end (R127). -/
def finalAcur (c : Cfg) (e : Env) : Nat :=
  if videoSideEnds c e = true then recordCount c e * chunkLen c else e.audio.length

/-- POLL at the end (R127). -/
def finalPoll (c : Cfg) (e : Env) : Nat :=
  if videoSideEnds c e = true then usableFrames e + 1 else recordCount c e / c.dup + 1

/-- A place in the output stream (R57). -/
inductive StreamPlace where
  /-- byte `j` of the Packed Video Record of record `k` -/
  | video (k j : Nat)
  /-- byte `i` of the Audio Chunk of record `k` -/
  | audio (k i : Nat)
  deriving DecidableEq, Repr

/-- The address map of OUT: what offset `o` belongs to (R57). -/
def placeOf (c : Cfg) (o : Nat) : StreamPlace :=
  let k := o / recordSize c
  let p := o % recordSize c
  if p < videoSize c then .video k p else .audio k (p - videoSize c)

/-- The Reader's inverse: `unpack(v)[y][x]` is bit 7 - (i mod 8) of v[i div 8], i = x*H + y; pad bits are not looked at
(R130). -/
def unpack (c : Cfg) (v : List Byte) : Bitmap :=
  (List.range c.h).map fun y => (List.range c.w).map fun x =>
    let i := x * c.h + y
    (v.getD (i / 8) 0).getLsbD (7 - i % 8)

/-- The Reader's parse of a stream: the bitmap of every whole record; audio and a trailing part are discarded (R132). -/
def readerParse (c : Cfg) (v : List Byte) : List Bitmap :=
  (List.range (v.length / recordSize c)).map fun k =>
    unpack c ((v.drop (k * recordSize c)).take (videoSize c))

/-- The Reader's diagnostic, ConstantMismatch: the length is no multiple of the record size (R66, R145). -/
def readerMismatch (c : Cfg) (v : List Byte) : Bool := decide (v.length % recordSize c ≠ 0)

end Sys2Proof.Machine
end

