-- ==== Sys2Proof/Machine/Trace.lean ====
section
/-! DEFINITION. Runs and traces (spec/30_encoding.md R83 to R90): `k` steps of the machine, the operations they
execute with the notes of R83, and the macro operations. A trace observes a run and changes nothing. -/

namespace Sys2Proof.Machine

/-- `k` steps, stopping at the first that is not a next state. -/
def runFor : Nat → State → Host.Outcome State Fault Refusal
  | 0, s => .next s
  | k + 1, s =>
    match step s with
    | .next s' => runFor k s'
    | .fault f => .fault f
    | .refused r => .refused r

/-- The operation the next step executes, if that step executes one: none under reset or a reserved code. -/
def operationAt (s : State) : Option Instr :=
  if s.pins.reset = true then none
  else match selected s with
    | .ok i => some i
    | .error _ => none

/-- What a trace line's note records of its step (R83). -/
inductive TraceNote where
  | none
  | frame
  | eos
  | fail
  | cancel
  | short
  /-- SHIFT: `b=<bit> x=<CX> y=<RY>`, the values before the step -/
  | pixel (b : Bool) (x y : Nat)
  /-- STB: `RB[<BI>]=<byte>` -/
  | stored (i : Nat) (v : Byte)
  /-- LDA: `s=<byte>` -/
  | sample (v : Byte)
  /-- QNT: `AB[<AC>]=<byte>` -/
  | quantized (i : Nat) (v : Byte)
  /-- WRV and WRA: `out=<byte>` -/
  | written (v : Byte)
  deriving DecidableEq, Repr

/-- The note of the step that operation `i` takes from state `s` (R83). -/
def noteOf (i : Instr) (s : State) : TraceNote :=
  match i with
  | .fetch =>
    if cancelAt s.env s.poll = true then .cancel
    else match videoAnswer s with
      | .frame _ => .frame
      | .eos => .eos
      | .fail => .fail
  | .shift =>
    match pixelOperand s.cfg s.fb s.ry s.cx with
    | .ok b => .pixel b s.cx s.ry
    | .error _ => .none
  | .stb => .stored s.bi s.sr
  | .lda =>
    match audioAnswer s with
    | .byte v => .sample v
    | .short => .short
    | .fail => .fail
  | .qnt => .quantized s.ac (quant s.cfg s.smp)
  | .wrv =>
    match readCell .rb (videoSize s.cfg) s.rb s.oc with
    | .ok v => .written v
    | .error _ => .none
  | .wra =>
    match readCell .ab (chunkLen s.cfg) s.ab s.oc with
    | .ok v => .written v
    | .error _ => .none
  | .idle => .none
  | .pad => .none
  | .nxt => .none
  | .hlt => .none
  | .endPhase => .none
  | .errPhase => .none

/-- One line of a trace: step number, operation, note (R83). -/
structure TraceLine where
  number : Nat
  op     : Instr
  note   : TraceNote
  deriving DecidableEq, Repr

/-- The trace of the next `k` steps, the first numbered `n` (R83): a line for every step that executes an operation. -/
def traceFrom : Nat → Nat → State → List TraceLine
  | 0, _, _ => []
  | k + 1, n, s =>
    match step s with
    | .next s' =>
      match operationAt s with
      | some i => ⟨n, i, noteOf i s⟩ :: traceFrom k (n + 1) s'
      | none => traceFrom k n s'
    | .fault _ => []
    | .refused _ => []

/-- The operations of the next `k` steps, in step order. -/
def opsOf (k : Nat) (s : State) : List Instr := (traceFrom k 1 s).map TraceLine.op

/-- The encoding of a trace: the list of the 4-bit codes of its mnemonics (R83). -/
def encodeTrace (t : List TraceLine) : List (BitVec 4) := t.map fun l => encode l.op

/-- One hexadecimal digit, in capitals. -/
def hexDigit (n : Nat) : Char :=
  ['0', '1', '2', '3', '4', '5', '6', '7', '8', '9', 'A', 'B', 'C', 'D', 'E', 'F'].getD n '?'

/-- "Bytes are two hexadecimal digits" (R83). -/
def hexByte (v : Byte) : String := String.ofList [hexDigit (v.toNat / 16), hexDigit (v.toNat % 16)]

/-- A note as R83 spells it. -/
def TraceNote.text : TraceNote → String
  | .none => ""
  | .frame => "FRAME"
  | .eos => "EOS"
  | .fail => "FAIL"
  | .cancel => "cancel"
  | .short => "SHORT"
  | .pixel b x y => "b=" ++ (if b = true then "1" else "0") ++ " x=" ++ toString x ++ " y=" ++ toString y
  | .stored i v => "RB[" ++ toString i ++ "]=" ++ hexByte v
  | .sample v => "s=" ++ hexByte v
  | .quantized i v => "AB[" ++ toString i ++ "]=" ++ hexByte v
  | .written v => "out=" ++ hexByte v

/-- A trace line as R83 spells it. -/
def TraceLine.text (l : TraceLine) : String :=
  toString l.number ++ "  " ++ l.op.mnemonic ++ "  " ++ l.note.text

/-- Macro PACK, the packing of one frame (R84). -/
def packMacro (c : Cfg) : List Instr :=
  (List.range (npix c)).flatMap (fun i => if (i + 1) % 8 = 0 then [.shift, .stb] else [.shift])
    ++ (if 0 < npad c then List.replicate (npad c) .pad ++ [.stb] else [])

/-- Macro CHUNK (R85). -/
def chunkMacro (c : Cfg) : List Instr := (List.replicate (chunkLen c) [Instr.lda, Instr.qnt]).flatten

/-- Macro COMMIT (R86). -/
def commitMacro (c : Cfg) : List Instr :=
  List.replicate (videoSize c) .wrv ++ List.replicate (chunkLen c) .wra ++ [.nxt]

/-- Macro RECORD, one Stream Record (R87). -/
def recordMacro (c : Cfg) : List Instr := chunkMacro c ++ commitMacro c

/-- Macro FRAME, one video frame with all its records (R88). -/
def frameMacro (c : Cfg) : List Instr :=
  [.fetch] ++ packMacro c ++ (List.replicate c.dup (recordMacro c)).flatten

/-- Macro RUN(NF), a run that ends by video exhaustion with enough audio and no cancel (R89). -/
def runMacro (c : Cfg) (nf : Nat) : List Instr :=
  [.idle] ++ (List.replicate nf (frameMacro c)).flatten ++ [.fetch, .hlt]

end Sys2Proof.Machine
end

