-- ==== Sys2Proof/Safety.lean ====
section
/-! DEFINITION. What a safe run is: the invariants of spec/10_state.md R42 (with the status, output and buffer rules
R25, R28, R31, R32, R39), clause by clause and by phase, and the relation between a state in a run and the ideal
stream of spec/43_stream_contract.md. Both take `k`, "the number of NXT operations executed since reset" (R42 (g)). -/

namespace Sys2Proof.Machine

/-- A buffer in canonical form with no cell outside 0..size-1 (R25, R28). -/
def BufferInv (size : Nat) (m : Memory) : Prop :=
  Memory.wf m = true ∧ ∀ a, size ≤ a → Memory.read m a = none

/-- What holds in every phase: the setup conforms, PI = CX*H + RY is at most NPIX (R42 (a)), DC < DUP (R42 (f)),
RC = K mod 2^32 (R42 (g)), the buffers have their sizes. -/
def CommonInv (k : Nat) (s : State) : Prop :=
  s.cfg.valid = true ∧ s.env.conforms s.cfg = true ∧ s.cx * s.cfg.h + s.ry ≤ npix s.cfg ∧ s.dc < s.cfg.dup ∧
    s.rc = BitVec.ofNat 32 k ∧ BufferInv (videoSize s.cfg) s.rb ∧ BufferInv (chunkLen s.cfg) s.ab

/-- RB[0..BI-1] holds the first BI bytes of pack(B) (R96). -/
def RecordPrefix (s : State) (b : Bitmap) : Prop :=
  ∀ j, j < s.bi → Memory.read s.rb j = some (packByte s.cfg b j)

/-- SR holds the last BC bits of the traversal sequence in its low BC bits, first-in highest, and zeros above (R96,
R98). -/
def ShiftHolds (s : State) (b : Bitmap) : Prop :=
  s.sr.toNat < 2 ^ s.bc ∧
    ∀ t, t < s.bc → s.sr.getLsbD (s.bc - 1 - t) = packBit s.cfg b (8 * s.bi + t)

/-- FB holds a bitmap of the configured size (R19, R43). -/
def FrameLoaded (s : State) (b : Bitmap) : Prop := s.fb = some b ∧ Bitmap.fits s.cfg b = true

/-- The record is packed (R42 (c)). -/
def Packed (s : State) : Prop :=
  ∃ b, FrameLoaded s b ∧ RecordPrefix s b ∧
    s.cx = s.cfg.w ∧ s.ry = 0 ∧ s.bc = 0 ∧ s.sr = 0 ∧ s.bi = videoSize s.cfg

/-- The packer's registers by phase (R42 (a), (b), (c)); every counter is 0 in IDLE, "by reset" (R107). In PAD and in the last STB the pads are what
8*BI + BC exceeds NPIX by. -/
def PackerInv (i : Instr) (s : State) : Prop :=
  match i with
  | .shift => ∃ b, FrameLoaded s b ∧ RecordPrefix s b ∧ ShiftHolds s b ∧
      s.cx < s.cfg.w ∧ s.ry < s.cfg.h ∧ s.bc ≤ 7 ∧ 8 * s.bi + s.bc = s.cx * s.cfg.h + s.ry
  | .pad => ∃ b, FrameLoaded s b ∧ RecordPrefix s b ∧ ShiftHolds s b ∧
      s.cx = s.cfg.w ∧ s.ry = 0 ∧ 1 ≤ s.bc ∧ s.bc ≤ 7 ∧
      npix s.cfg ≤ 8 * s.bi + s.bc ∧ s.bi + 1 = videoSize s.cfg
  | .stb => ∃ b, FrameLoaded s b ∧ RecordPrefix s b ∧ ShiftHolds s b ∧ s.bc = 8 ∧
      ((s.cx < s.cfg.w ∧ s.ry < s.cfg.h ∧ 8 * s.bi + 8 = s.cx * s.cfg.h + s.ry) ∨
        (s.cx = s.cfg.w ∧ s.ry = 0 ∧ s.bi + 1 = videoSize s.cfg))
  | .lda => Packed s
  | .qnt => Packed s
  | .wrv => Packed s
  | .wra => Packed s
  | .nxt => Packed s
  | .idle => s.cx = 0 ∧ s.ry = 0 ∧ s.sr = 0 ∧ s.bc = 0 ∧ s.bi = 0 ∧ s.dc = 0
  | .fetch => True
  | .hlt => True
  | .endPhase => True
  | .errPhase => True

/-- The first `n` cells of AB hold values (R43). -/
def ChunkStaged (s : State) (n : Nat) : Prop := ∀ i, i < n → (Memory.read s.ab i).isSome = true

/-- AC and the audio cursor after a run: K*N <= ACUR < K*N + N, and ACUR = 0 when N = 0 (R42 (h)). -/
def AudioEnded (k : Nat) (s : State) : Prop :=
  k * chunkLen s.cfg ≤ s.acur ∧ (0 < chunkLen s.cfg → s.acur < k * chunkLen s.cfg + chunkLen s.cfg) ∧
    (chunkLen s.cfg = 0 → s.acur = 0)

/-- The audio registers and cursor by phase (R42 (d), (h); R43). -/
def AudioInv (k : Nat) (i : Instr) (s : State) : Prop :=
  match i with
  | .idle => s.ac = 0 ∧ s.acur = 0
  | .fetch => s.ac = 0 ∧ s.acur = k * chunkLen s.cfg
  | .shift => s.ac = 0 ∧ s.acur = k * chunkLen s.cfg
  | .pad => s.ac = 0 ∧ s.acur = k * chunkLen s.cfg
  | .stb => s.ac = 0 ∧ s.acur = k * chunkLen s.cfg
  | .lda => s.ac < chunkLen s.cfg ∧ s.acur = k * chunkLen s.cfg + s.ac ∧ ChunkStaged s s.ac
  | .qnt => s.ac < chunkLen s.cfg ∧ s.acur = k * chunkLen s.cfg + s.ac + 1 ∧ ChunkStaged s s.ac
  | .wrv => s.ac = chunkLen s.cfg ∧ s.acur = k * chunkLen s.cfg + s.ac ∧ ChunkStaged s s.ac
  | .wra => s.ac = chunkLen s.cfg ∧ s.acur = k * chunkLen s.cfg + s.ac ∧ ChunkStaged s s.ac
  | .nxt => s.ac = chunkLen s.cfg ∧ s.acur = k * chunkLen s.cfg + s.ac ∧ ChunkStaged s s.ac
  | .hlt => AudioEnded k s
  | .endPhase => AudioEnded k s
  | .errPhase => AudioEnded k s

/-- How many bytes of the record being written are out (R42 (g)). -/
def partialLength (i : Instr) (s : State) : Nat :=
  match i with
  | .wrv => s.oc
  | .wra => videoSize s.cfg + s.oc
  | .nxt => recordSize s.cfg
  | .idle => 0
  | .fetch => 0
  | .shift => 0
  | .pad => 0
  | .stb => 0
  | .lda => 0
  | .qnt => 0
  | .hlt => 0
  | .endPhase => 0
  | .errPhase => 0

/-- The output counter and the write cursor by phase (R42 (e), (g)). -/
def OutputInv (k : Nat) (i : Instr) (s : State) : Prop :=
  s.out.length = k * recordSize s.cfg + partialLength i s ∧
    (i = .wrv → s.oc < videoSize s.cfg) ∧ (i = .wra → s.oc < chunkLen s.cfg) ∧
    (i ≠ .wrv → i ≠ .wra → s.oc = 0)

/-- A cause a normal termination writes (R33). -/
def Cause.isNormalEnd : Cause → Bool
  | .vend => true
  | .aend => true
  | .canc => true
  | .none => false
  | .vfail => false
  | .afail => false

/-- STATUS and OPEN between the start and the end of a run: BUSY alone, no cause yet, output open. -/
def Running (s : State) : Prop := s.status = ⟨true, false, false, .none⟩ ∧ s.isOpen = true

/-- STATUS and OPEN by phase (R32, R39, R113, R114, R148); at reset K is 0. -/
def StatusInv (k : Nat) (i : Instr) (s : State) : Prop :=
  match i with
  | .idle => s.status = ⟨false, false, false, .none⟩ ∧ s.isOpen = false ∧ k = 0
  | .hlt => s.status = ⟨true, false, false, s.status.cause⟩ ∧ s.status.cause.isNormalEnd = true ∧ s.isOpen = true
  | .endPhase =>
      s.status = ⟨false, true, false, s.status.cause⟩ ∧ s.status.cause.isNormalEnd = true ∧ s.isOpen = false
  | .errPhase =>
      s.status = ⟨false, false, true, s.status.cause⟩ ∧ s.status.cause.isFault = true ∧ s.isOpen = false
  | .fetch => Running s
  | .shift => Running s
  | .pad => Running s
  | .stb => Running s
  | .lda => Running s
  | .qnt => Running s
  | .wrv => Running s
  | .wra => Running s
  | .nxt => Running s

/-- THE INVARIANT of R42, with `k` records committed since reset. -/
def Inv (k : Nat) (s : State) : Prop :=
  ∃ i, s.ph = encode i ∧ CommonInv k s ∧ PackerInv i s ∧ AudioInv k i s ∧ OutputInv k i s ∧ StatusInv k i s

/-- `k` after a step (R42 (g)): reset starts the count anew, NXT adds one. -/
def nextCount (k : Nat) (s : State) : Nat :=
  if s.pins.reset = true then 0 else if s.ph = encode .nxt then k + 1 else k

/-- No poll before `p` saw cancel. -/
def NotCancelledBefore (e : Env) (p : Nat) : Prop := ∀ q, q < p → cancelAt e q = false

/-- While a frame is being packed, staged and written: it is the frame of record `k`, it was delivered by the last
poll, and DC counts its records (R29, R30, R36, R40). -/
def OnFrame (k : Nat) (s : State) : Prop :=
  s.vcur = k / s.cfg.dup + 1 ∧ s.vcur ≤ s.env.frames.length ∧ s.dc = k % s.cfg.dup ∧
    s.fb = some (recordFrame s.cfg s.env k) ∧ s.poll = s.vcur ∧ NotCancelledBefore s.env s.vcur

/-- The first `n` cells of AB hold the quantized samples of record `k` (R103). -/
def ChunkHolds (k n : Nat) (s : State) : Prop :=
  ∀ i, i < n → Memory.read s.ab i = some (quant s.cfg (s.env.audio.getD (k * chunkLen s.cfg + i) 0))

/-- The video side ended the run: every record of `vcur` frames is out and the next poll has been made. -/
def EndedByVideo (k : Nat) (s : State) : Prop :=
  k = s.cfg.dup * s.vcur ∧ s.vcur ≤ s.env.frames.length ∧ s.poll = s.vcur + 1 ∧
    NotCancelledBefore s.env s.vcur ∧ s.acur = k * chunkLen s.cfg

/-- The audio side ended the run, in the chunk of record `k`: fewer than N bytes were left. -/
def EndedByAudio (k : Nat) (s : State) : Prop :=
  s.vcur = k / s.cfg.dup + 1 ∧ s.vcur ≤ s.env.frames.length ∧ s.poll = s.vcur ∧
    NotCancelledBefore s.env s.vcur ∧ s.acur = s.env.audio.length ∧
    k * chunkLen s.cfg ≤ s.env.audio.length ∧ s.env.audio.length < k * chunkLen s.cfg + chunkLen s.cfg

/-- What each cause says of the run (R116, R125, R138). -/
def EndReason (k : Nat) (s : State) : Prop :=
  match s.status.cause with
  | .vend => EndedByVideo k s ∧ s.vcur = s.env.frames.length ∧ cancelAt s.env s.vcur = false ∧ s.env.vend = .eos
  | .canc => EndedByVideo k s ∧ cancelAt s.env s.vcur = true
  | .aend => EndedByAudio k s ∧ s.env.aend = .short
  | .vfail => EndedByVideo k s ∧ s.vcur = s.env.frames.length ∧ cancelAt s.env s.vcur = false ∧ s.env.vend = .fail
  | .afail => EndedByAudio k s ∧ s.env.aend = .fail
  | .none => False

/-- Where the run stands in the ideal stream, by phase. -/
def ProgressInv (k : Nat) (i : Instr) (s : State) : Prop :=
  match i with
  | .idle => s.vcur = 0 ∧ s.poll = 0 ∧ s.dc = 0 ∧ s.acur ≤ s.env.audio.length
  | .fetch => k = s.cfg.dup * s.vcur ∧ s.vcur ≤ s.env.frames.length ∧ s.dc = 0 ∧ s.poll = s.vcur ∧
      NotCancelledBefore s.env s.vcur ∧ s.acur ≤ s.env.audio.length
  | .shift => OnFrame k s ∧ s.acur ≤ s.env.audio.length
  | .pad => OnFrame k s ∧ s.acur ≤ s.env.audio.length
  | .stb => OnFrame k s ∧ s.acur ≤ s.env.audio.length
  | .lda => OnFrame k s ∧ s.acur ≤ s.env.audio.length ∧ ChunkHolds k s.ac s
  | .qnt => OnFrame k s ∧ s.acur ≤ s.env.audio.length ∧ ChunkHolds k s.ac s ∧
      s.smp = s.env.audio.getD (k * chunkLen s.cfg + s.ac) 0
  | .wrv => OnFrame k s ∧ s.acur ≤ s.env.audio.length ∧ ChunkHolds k s.ac s
  | .wra => OnFrame k s ∧ s.acur ≤ s.env.audio.length ∧ ChunkHolds k s.ac s
  | .nxt => OnFrame k s ∧ s.acur ≤ s.env.audio.length ∧ ChunkHolds k s.ac s
  | .hlt => EndReason k s
  | .endPhase => EndReason k s
  | .errPhase => EndReason k s

/-- THE STREAM INVARIANT: OUT is the first `k` ideal records and the part of record `k` already written (R59, R121,
R126), and the cursors stand where that says. -/
def StreamInv (k : Nat) (s : State) : Prop :=
  ∃ i, s.ph = encode i ∧ ProgressInv k i s ∧
    s.out = stream s.cfg s.env k ++ (srec s.cfg s.env k).take (partialLength i s)

/-- The run is over (R17). -/
def RunOver (s : State) : Prop := s.ph = encode .endPhase ∨ s.ph = encode .errPhase

end Sys2Proof.Machine
end

