-- ==== Sys2Proof/Certificates/Slice0/Obligations.lean ====
section
/-! DEFINITION. The statements for the provers: what the rules of spec/ say of the codes, the setup, the primitives,
each operation with its frame, the whole machine, the output formats and whole runs. `exec i s = .next { s with … }`
says at once that the operation completes, what it writes, and that every other field is unchanged. -/

open Sys2Proof Sys2Proof.Machine

/-! ### Codes and formats -/

/-- R75: the thirteen 4-bit codes, written out bit by bit, name the thirteen operations of the map. -/
def Obligations.OperationMapCodes : Prop :=
  decode 0b0000#4 = .ok .idle ∧ decode 0b0001#4 = .ok .fetch ∧ decode 0b0010#4 = .ok .shift ∧
  decode 0b0011#4 = .ok .pad ∧ decode 0b0100#4 = .ok .stb ∧ decode 0b0101#4 = .ok .lda ∧
  decode 0b0110#4 = .ok .qnt ∧ decode 0b0111#4 = .ok .wrv ∧ decode 0b1000#4 = .ok .wra ∧
  decode 0b1001#4 = .ok .nxt ∧ decode 0b1010#4 = .ok .hlt ∧ decode 0b1011#4 = .ok .endPhase ∧
  decode 0b1100#4 = .ok .errPhase

/-- Decode and encode agree in both directions, and exactly the codes 13, 14 and 15 are rejected (30_encoding.md
section 2). -/
def Obligations.DecodeInvertsEncode : Prop :=
  (∀ i, i.wellFormed = true → decode (encode i) = .ok i) ∧
  (∀ code i, decode code = .ok i → encode i = code) ∧
  (∀ code, (∃ e, decode code = .error e) ↔ 12 < code.toNat)

/-- 30_encoding.md section 2 (R76): a state whose PH holds 13, 14 or 15 has no step, and no operation, no step and no
reset writes such a code. That the refusal holds under a reset input of 1 too is the model's reading (log entry 5). -/
def Obligations.ReservedPhaseCodesRefused : Prop :=
  (∀ s : State, 12 < s.ph.toNat → ∃ r, step s = .refused r) ∧
  (∀ s : State, s.cfg.valid = true → s.env.conforms s.cfg = true → 12 < s.ph.toNat →
    step s = .refused (.reservedPhase s.ph)) ∧
  (∀ (i : Instr) (s t : State), exec i s = .next t → t.ph.toNat ≤ 12) ∧
  (∀ s t : State, step s = .next t → t.ph.toNat ≤ 12) ∧
  (∀ (c : Cfg) (e : Env) (p : Pins), (State.resetWith c e p).ph.toNat ≤ 12)

/-- R77, R78: the kinds of the two sources' answers, and kind 3, which no source gives. -/
def Obligations.AnswerKinds : Prop :=
  (∀ b p, videoAnswerOf 0b00#2 b = .ok (.frame b) ∧ videoAnswerOf 0b01#2 b = .ok .eos ∧
    videoAnswerOf 0b10#2 b = .ok .fail ∧ videoAnswerOf 0b11#2 b = .error .reservedKind ∧
    audioAnswerOf 0b00#2 p = .ok (.byte p) ∧ audioAnswerOf 0b01#2 p = .ok .short ∧
    audioAnswerOf 0b10#2 p = .ok .fail ∧ audioAnswerOf 0b11#2 p = .error .reservedKind) ∧
  (∀ b, (VideoAnswer.frame b).kind = 0b00#2) ∧ VideoAnswer.eos.kind = 0b01#2 ∧ VideoAnswer.fail.kind = 0b10#2 ∧
  (∀ p, (AudioAnswer.byte p).kind = 0b00#2) ∧ AudioAnswer.short.kind = 0b01#2 ∧ AudioAnswer.fail.kind = 0b10#2 ∧
  (∀ s : State, (vidNext s).1.kind ≠ 0b11#2 ∧ (audNext s).1.kind ≠ 0b11#2)

/-- R79 (with the layout of R32 and the codes of R33): the eight bits of STATUS as the host reads them. -/
def Obligations.StatusLayout : Prop :=
  (∀ t : Status, t.word.getLsbD 0 = t.busy ∧ t.word.getLsbD 1 = t.done ∧ t.word.getLsbD 2 = t.errf ∧
    t.word.getLsbD 3 = false ∧ t.word.extractLsb 6 4 = t.cause.code ∧ t.word.getLsbD 7 = false) ∧
  Cause.none.code = 0 ∧ Cause.vend.code = 1 ∧ Cause.aend.code = 2 ∧ Cause.canc.code = 3 ∧
  Cause.vfail.code = 4 ∧ Cause.afail.code = 5 ∧ Cause.ofCode 6 = none ∧ Cause.ofCode 7 = none ∧
  (∀ x : Cause, Cause.ofCode x.code = some x) ∧ (∀ s : State, hostStatus s = s.status.word)

/-- R68: the pixel-to-bit map of VREC, in both directions. -/
def Obligations.PackedPixelMap : Prop :=
  (∀ (c : Cfg) (b : Bitmap) (j t : Nat), j < videoSize c → t ≤ 7 →
    ∃ v, (pack c b)[j]? = some v ∧
      (8 * j + t < c.w * c.h → v.getLsbD (7 - t) = pixelAt b ((8 * j + t) % c.h) ((8 * j + t) / c.h)) ∧
      (c.w * c.h ≤ 8 * j + t → v.getLsbD (7 - t) = false)) ∧
  (∀ (c : Cfg) (b : Bitmap) (x y : Nat), x < c.w → y < c.h →
    ∃ v, (pack c b)[(x * c.h + y) / 8]? = some v ∧ v.getLsbD (7 - (x * c.h + y) % 8) = pixelAt b y x)

/-- R131 with the pads of R69: unpacking a packed bitmap gives the bitmap, and packing an unpacked record gives the
record exactly when its pad bits, the low NPAD bits of its last byte, are 0. -/
def Obligations.PackUnpackRoundTrip : Prop :=
  (∀ (c : Cfg) (b : Bitmap), c.valid = true → Bitmap.fits c b = true → unpack c (pack c b) = b) ∧
  (∀ (c : Cfg) (v : List Byte), c.valid = true → v.length = videoSize c →
    Bitmap.fits c (unpack c v) = true ∧
    (pack c (unpack c v) = v ↔
      ∀ q, q < npad c → (v.getD (videoSize c - 1) 0).getLsbD q = false))

/-- R100: quant is the division by 2^SHIFT, its high SHIFT bits are 0, SHIFT = 0 is the identity, and 0xFF under a
shift of 2 gives 0x3F. -/
def Obligations.QuantizerDivides : Prop :=
  (∀ (c : Cfg) (v : Byte), c.shift ≤ 7 →
    (quant c v).toNat = v.toNat / 2 ^ c.shift ∧ (quant c v).toNat ≤ 2 ^ (8 - c.shift) - 1 ∧
    (∀ q, 8 - c.shift ≤ q → (quant c v).getLsbD q = false) ∧
    (∀ q, q < 8 - c.shift → (quant c v).getLsbD q = v.getLsbD (q + c.shift))) ∧
  (∀ (c : Cfg) (v : Byte), c.shift = 0 → quant c v = v) ∧
  (∀ c : Cfg, c.shift = 2 → quant c 0b11111111#8 = 0b00111111#8)

/-- 41_audio_quantizer.md section 3: two applications shift twice as far, and differ from one for some sample whenever
SHIFT >= 1. -/
def Obligations.QuantizerNotIdempotent : Prop :=
  ∀ c : Cfg, c.shift ≤ 7 →
    (∀ v : Byte, quant c (quant c v) = v >>> (2 * c.shift)) ∧
    (1 ≤ c.shift → ∃ v : Byte, quant c (quant c v) ≠ quant c v)

/-- R57: what stands at each offset of the ideal stream. -/
def Obligations.StreamAddressMap : Prop :=
  ∀ (c : Cfg) (e : Env) (k o : Nat), o < k * recordSize c →
    (o % recordSize c < videoSize c → placeOf c o = .video (o / recordSize c) (o % recordSize c) ∧
      (stream c e k)[o]? = (pack c (recordFrame c e (o / recordSize c)))[o % recordSize c]?) ∧
    (videoSize c ≤ o % recordSize c →
      placeOf c o = .audio (o / recordSize c) (o % recordSize c - videoSize c) ∧
      (stream c e k)[o]? = (audioChunk c e (o / recordSize c))[o % recordSize c - videoSize c]?) ∧
    (stream c e k)[o]?.isSome = true

/-! ### Setup, reset, one step -/

/-- R11: which configurations are valid; an invalid one has no behaviour; N = 0 is valid and its record is the Packed
Video Record alone; VIDEO_SIZE >= 1. -/
def Obligations.OnlyValidConfigurationsRun : Prop :=
  (∀ c : Cfg, c.valid = true ↔ 1 ≤ c.w ∧ 1 ≤ c.h ∧ 1 ≤ c.sampleRate ∧ 1 ≤ c.frameRate ∧ c.shift ≤ 7 ∧
    (c.dup = 1 ∨ c.dup = 2)) ∧
  (∀ s : State, s.cfg.valid = false → step s = .refused .invalidConfig) ∧
  (∀ (c : Cfg) (e : Env) (k : Nat), c.sampleRate < c.frameRate →
    chunkLen c = 0 ∧ srec c e k = pack c (recordFrame c e k)) ∧
  (∀ c : Cfg, c.valid = true → 1 ≤ videoSize c)

/-- R45: the value of every register after reset. -/
def Obligations.ResetState : Prop :=
  ∀ (c : Cfg) (e : Env) (p : Pins), ∃ r, r = State.resetWith c e p ∧
    r.cfg = c ∧ r.ph = 0#4 ∧ decode r.ph = .ok .idle ∧
    r.cx = 0 ∧ r.ry = 0 ∧ r.sr = 0 ∧ r.bc = 0 ∧ r.bi = 0 ∧ r.smp = 0 ∧ r.ac = 0 ∧ r.oc = 0 ∧ r.dc = 0 ∧
    r.rc = 0 ∧ hostStatus r = 0x00#8 ∧ r.status.busy = false ∧ r.status.done = false ∧ r.status.errf = false ∧
    r.status.cause = .none ∧ r.fb = none ∧
    (∀ a, Memory.read r.rb a = none) ∧ (∀ a, Memory.read r.ab a = none) ∧
    r.isOpen = false ∧ r.out = [] ∧ r.vcur = 0 ∧ r.acur = 0 ∧ r.poll = 0

/-- R158: a reset input of 1 overrides every operation: from every phase, the final ones included, the next state is the
reset state (with the constants untouched); it stays there while the input is 1, and when it returns to 0. -/
def Obligations.ResetInputOverrides : Prop :=
  ∀ s : State, s.cfg.valid = true → s.env.conforms s.cfg = true → s.ph.toNat ≤ 12 → s.pins.reset = true →
    ∃ (e : Env) (p : Pins), step s = .next (State.resetWith s.cfg e p) ∧
      step (State.resetWith s.cfg e p) = .next (State.resetWith s.cfg e p) ∧
      ∀ p', hostDrive (State.resetWith s.cfg e p) p' = State.resetWith s.cfg e p'

/-- R18: PH alone selects the operation. When the setup conforms, reset is 0 and PH decodes to `i`, the step is `exec i`;
and a table word placed where the step finds its operation runs as the operation it decodes to (the table word and its
place are the model's: log entries 14 and 15). -/
def Obligations.StepRunsDecodedOperation : Prop :=
  (∀ (s : State) (i : Instr), s.cfg.valid = true → s.env.conforms s.cfg = true → s.pins.reset = false →
    decode s.ph = .ok i → step s = exec i s) ∧
  (∀ (s : State) (i : Instr) (w : Nat), s.cfg.valid = true → s.env.conforms s.cfg = true → s.pins.reset = false →
    decodeTableWord 8 w = some i → step (s.withFetchWord 8 w) = exec i (s.withFetchWord 8 w) ∧
      s.withFetchWord 8 w = { s with ph := encode i })

/-- 00_scope.md section 3 (the configuration is constant), 20_memory.md section 5 (the sources' contents are fixed for a
run): no step changes the configuration, the environment's contents or the host's input levels. That all three stand in
the state, and that a reset keeps the last two, is the model's choice (log entries 1 and 13). -/
def Obligations.SetupIsConstant : Prop :=
  ∀ s t : State, step s = .next t → t.cfg = s.cfg ∧ t.env = s.env ∧ t.pins = s.pins

/-! ### The primitives -/

/-- R49: `VidNext()`; a frame of a conforming source is a whole bitmap. -/
def Obligations.VideoReadPrimitive : Prop :=
  (∀ (s : State) (h : s.vcur < s.env.frames.length),
    vidNext s = (.frame s.env.frames[s.vcur], { s with vcur := s.vcur + 1 }) ∧
    (s.env.conforms s.cfg = true → Bitmap.fits s.cfg s.env.frames[s.vcur] = true)) ∧
  (∀ s : State, s.env.frames.length ≤ s.vcur → s.env.vend = .eos → vidNext s = (.eos, s)) ∧
  (∀ s : State, s.env.frames.length ≤ s.vcur → s.env.vend = .fail → vidNext s = (.fail, s))

/-- R50: `AudNext()`. -/
def Obligations.AudioReadPrimitive : Prop :=
  (∀ (s : State) (h : s.acur < s.env.audio.length),
    audNext s = (.byte s.env.audio[s.acur], { s with acur := s.acur + 1 })) ∧
  (∀ s : State, s.env.audio.length ≤ s.acur → s.env.aend = .short → audNext s = (.short, s)) ∧
  (∀ s : State, s.env.audio.length ≤ s.acur → s.env.aend = .fail → audNext s = (.fail, s))

/-- R51: `OutWrite(v)` requires OPEN = 1 and appends one byte, and no write to an open output is refused or lost;
`OutClose()` clears OPEN. -/
def Obligations.OutputPrimitives : Prop :=
  (∀ (s : State) (v : Byte), s.isOpen = true →
    ∃ t, outWrite s v = .ok t ∧ t = { s with out := s.out ++ [v] } ∧ t.out.length = s.out.length + 1) ∧
  (∀ (s t : State) (v : Byte), outWrite s v = .ok t → s.isOpen = true) ∧
  (∀ s : State, s.outClose = { s with isOpen := false })

/-- 60_exceptions.md section 1 (R144), with the cancel input as the model has it, a list and past its end a free draw (its
own choice, log entry 3): `CancelPoll()` reads the cancel value of its poll number and counts; FETCH executes it, once, before it asks the
video source, and nothing else does; the values of the cancel input at any other poll have no effect on a step. -/
def Obligations.CancelPollPrimitive : Prop :=
  (∀ s : State, cancelPoll s = (cancelAt s.env s.poll, { s with poll := s.poll + 1 })) ∧
  (∀ (e : Env) (p : Nat) (b : Bool), e.cancel[p]? = some b → cancelAt e p = b) ∧
  (∀ s t : State, exec .fetch s = .next t → t.poll = s.poll + 1) ∧
  (∀ s t : State, exec .fetch s = .next t → cancelAt s.env s.poll = true → t.vcur = s.vcur ∧ t.fb = s.fb) ∧
  (∀ (i : Instr) (s t : State), i ≠ .fetch → exec i s = .next t → t.poll = s.poll) ∧
  (∀ (i : Instr) (s t : State) (cs : List Bool),
    (i = .fetch → cancelAt { s.env with cancel := cs } s.poll = cancelAt s.env s.poll) →
    exec i s = .next t →
    exec i { s with env := { s.env with cancel := cs } } = .next { t with env := { t.env with cancel := cs } })

/-- R161: a run begins when IDLE sees start = 1; start is ignored in every other phase; the launch state. -/
def Obligations.StartSampledOnlyInIdle : Prop :=
  (∀ s : State, s.pins.start = true → ∃ t, exec .idle s = .next t ∧ t.ph = encode .fetch) ∧
  (∀ s : State, s.ph = encode .idle → s.pins.start = false → exec .idle s = .next s) ∧
  (∀ (i : Instr) (s t : State) (b : Bool), i ≠ .idle → exec i s = .next t →
    exec i { s with pins := { s.pins with start := b } } = .next { t with pins := { t.pins with start := b } }) ∧
  (∀ (c : Cfg) (e : Env), State.launch c e = State.resetWith c e { reset := false, start := true })

/-- 60_exceptions.md section 3: fault entry writes OPEN, BUSY, ERRF, CAUSE and PH and nothing else, and the STATUS byte
the host then reads of a running block is 0x44 or 0x54. -/
def Obligations.FaultEntry : Prop :=
  (∀ (s : State) (e : FaultEvent), s.raise e = { s with
      isOpen := false, ph := encode .errPhase,
      status := { s.status with
        busy := false, errf := true,
        cause := match e with
          | .videoDecodeFailure => .vfail
          | .audioDecodeFailure => .afail } }) ∧
  (∀ s : State, Running s → hostStatus (s.raise .videoDecodeFailure) = 0x44#8 ∧
    hostStatus (s.raise .audioDecodeFailure) = 0x54#8)

/-! ### The Bit Packer -/

/-- R93: SHIFT, and that the conditions of its normal execution hold in every state of a run whose phase is SHIFT, where
the bit it drops from SR is 0. -/
def Obligations.ShiftMovesOnePixelIn : Prop :=
  (∀ (s : State) (b : Bitmap), s.fb = some b → Bitmap.fits s.cfg b = true → s.ry < s.cfg.h → s.cx < s.cfg.w →
    exec .shift s = .next { s with
      sr := (s.sr <<< 1) ||| (if pixelAt b s.ry s.cx = true then 1#8 else 0#8),
      bc := s.bc + 1,
      ry := if s.ry + 1 = s.cfg.h then 0 else s.ry + 1,
      cx := if s.ry + 1 = s.cfg.h then s.cx + 1 else s.cx,
      ph := if s.bc + 1 = 8 then encode .stb
        else if (if s.ry + 1 = s.cfg.h then s.cx + 1 else s.cx) = s.cfg.w then encode .pad
        else encode .shift }) ∧
  (∀ (k : Nat) (s : State), Inv k s → s.ph = encode .shift →
    (∃ b, s.fb = some b ∧ Bitmap.fits s.cfg b = true) ∧ s.ry < s.cfg.h ∧ s.cx < s.cfg.w ∧
      s.sr.getLsbD 7 = false)

/-- 40_packer.md section 2: PAD shifts a zero in and touches nothing but SR, BC and PH, in every state; in a run it is
executed only after the last pixel and only when NPAD > 0. -/
def Obligations.PadMovesOneZeroIn : Prop :=
  (∀ s : State, exec .pad s = .next { s with
      sr := s.sr <<< 1, bc := s.bc + 1,
      ph := if s.bc + 1 = 8 then encode .stb else encode .pad }) ∧
  (∀ (k : Nat) (s : State), Inv k s → s.ph = encode .pad →
    s.cx = s.cfg.w ∧ s.ry = 0 ∧ 0 < npad s.cfg ∧ s.bc ≤ 7)

/-- R95: STB stores SR in cell BI of RB and in no other cell, clears SR and BC, and goes on; in a run it is executed only
with BC = 8 and with a cell for the byte, and the last STB of a frame fills the record. -/
def Obligations.StbStoresTheByte : Prop :=
  (∀ s : State, s.bi < videoSize s.cfg → ∃ m,
    exec .stb s = .next { s with
      rb := m, bi := s.bi + 1, sr := 0, bc := 0,
      ph := if s.cx = s.cfg.w then (if chunkLen s.cfg = 0 then encode .wrv else encode .lda)
        else encode .shift } ∧
    Memory.read m s.bi = some s.sr ∧ ∀ a, a ≠ s.bi → Memory.read m a = Memory.read s.rb a) ∧
  (∀ (k : Nat) (s : State), Inv k s → s.ph = encode .stb →
    s.bc = 8 ∧ s.bi < videoSize s.cfg ∧ (s.cx = s.cfg.w → s.bi + 1 = videoSize s.cfg) ∧
      s.ac = 0 ∧ s.oc = 0)

/-! ### The Audio Quantizer -/

/-- R101: LDA with a sample and with a short read; in a run it is executed only with AC < N. (Its fault is
`AudioFailureFaults`.) -/
def Obligations.LdaLoadsOneSample : Prop :=
  (∀ (s : State) (h : s.acur < s.env.audio.length),
    exec .lda s = .next { s with
      smp := s.env.audio[s.acur], acur := s.acur + 1, ph := encode .qnt }) ∧
  (∀ s : State, s.env.audio.length ≤ s.acur → s.env.aend = .short →
    exec .lda s = .next { s with
      status := { s.status with cause := .aend }, ac := 0, ph := encode .hlt }) ∧
  (∀ s : State, s.env.audio.length ≤ s.acur → s.env.aend = .fail →
    exec .lda s = .next (s.raise .audioDecodeFailure)) ∧
  (∀ (k : Nat) (s : State), Inv k s → s.ph = encode .lda → 0 < chunkLen s.cfg ∧ s.ac < chunkLen s.cfg)

/-- R140: AudioDecodeFailure is raised by LDA when the audio source answers FAIL; it records CAUSE = AFAIL, and nothing
of the unfinished record reaches OUT. -/
def Obligations.AudioFailureFaults : Prop :=
  ∀ s : State, s.env.audio.length ≤ s.acur → s.env.aend = .fail →
    exec .lda s = .next { s with
      isOpen := false, ph := encode .errPhase,
      status := { s.status with busy := false, errf := true, cause := .afail } }

/-- R102: QNT stores SMP >> SHIFT in cell AC of AB and in no other cell; SMP is not changed; in a run AC < N, so the cell
exists. -/
def Obligations.QntStoresTheQuantizedSample : Prop :=
  (∀ s : State, s.ac < chunkLen s.cfg → ∃ m,
    exec .qnt s = .next { s with
      ab := m, ac := s.ac + 1,
      ph := if s.ac + 1 = chunkLen s.cfg then encode .wrv else encode .lda } ∧
    Memory.read m s.ac = some (s.smp >>> s.cfg.shift) ∧
    ∀ a, a ≠ s.ac → Memory.read m a = Memory.read s.ab a) ∧
  (∀ (k : Nat) (s : State), Inv k s → s.ph = encode .qnt → s.ac < chunkLen s.cfg)

/-! ### The Stream Multiplexer -/

/-- R107: IDLE with start = 1 and with start = 0; only reset leads back to IDLE; every counter is 0 there. -/
def Obligations.IdleWaitsForStart : Prop :=
  (∀ s : State, s.pins.start = true →
    exec .idle s = .next { s with
      status := { s.status with busy := true }, isOpen := true, ph := encode .fetch }) ∧
  (∀ s : State, s.pins.start = false → exec .idle s = .next { s with ph := encode .idle }) ∧
  (∀ s : State, s.ph = encode .idle → s.pins.start = false → exec .idle s = .next s) ∧
  (∀ (i : Instr) (s t : State), exec i s = .next t → t.ph = encode .idle → i = .idle ∧ s.pins.start = false) ∧
  (∀ (k : Nat) (s : State), Inv k s → s.ph = encode .idle →
    s.cx = 0 ∧ s.ry = 0 ∧ s.bc = 0 ∧ s.bi = 0 ∧ s.ac = 0 ∧ s.oc = 0 ∧ s.dc = 0 ∧ s.rc = 0)

/-- R108, with R141 and R143: FETCH polls cancel first, then asks the video source: cancelled, a frame, the end of the
video. No other operation ends the run because of the video source or the operator, and in a run FETCH stands at a frame
boundary: every record of the previous frames is out, and no other byte. (Its fault is `VideoFailureFaults`.) -/
def Obligations.FetchPollsThenGetsTheFrame : Prop :=
  (∀ s : State, cancelAt s.env s.poll = true →
    exec .fetch s = .next { s with
      poll := s.poll + 1, status := { s.status with cause := .canc }, ph := encode .hlt }) ∧
  (∀ (s : State) (h : s.vcur < s.env.frames.length), cancelAt s.env s.poll = false →
    exec .fetch s = .next { s with
      poll := s.poll + 1, vcur := s.vcur + 1, fb := some s.env.frames[s.vcur],
      cx := 0, ry := 0, sr := 0, bc := 0, bi := 0, ac := 0, oc := 0, dc := 0, ph := encode .shift }) ∧
  (∀ s : State, cancelAt s.env s.poll = false → s.env.frames.length ≤ s.vcur → s.env.vend = .eos →
    exec .fetch s = .next { s with
      poll := s.poll + 1, status := { s.status with cause := .vend }, ph := encode .hlt }) ∧
  (∀ s : State, cancelAt s.env s.poll = false → s.env.frames.length ≤ s.vcur → s.env.vend = .fail →
    exec .fetch s = .next ({ s with poll := s.poll + 1 }.raise .videoDecodeFailure)) ∧
  (∀ (i : Instr) (s t : State), exec i s = .next t → (t.ph = encode .hlt ∨ t.ph = encode .errPhase) →
    (t.status.cause = .vend ∨ t.status.cause = .canc ∨ t.status.cause = .vfail) → i = .fetch) ∧
  (∀ (k : Nat) (s : State), Inv k s → s.ph = encode .fetch → s.out.length = k * recordSize s.cfg) ∧
  (∀ (k : Nat) (s : State), Inv k s → StreamInv k s → s.ph = encode .fetch →
    k = s.cfg.dup * s.vcur ∧ s.dc = 0 ∧ s.out = stream s.cfg s.env k)

/-- R139: VideoDecodeFailure is raised by FETCH when, with cancel = 0, the video source answers FAIL; it records CAUSE =
VFAIL and nothing else; the poll FETCH has made is counted, as in program P5. -/
def Obligations.VideoFailureFaults : Prop :=
  ∀ s : State, cancelAt s.env s.poll = false → s.env.frames.length ≤ s.vcur → s.env.vend = .fail →
    exec .fetch s = .next { s with
      poll := s.poll + 1, isOpen := false, ph := encode .errPhase,
      status := { s.status with busy := false, errf := true, cause := .vfail } }

/-- R109: WRV appends cell OC of RB to OUT and changes no cell of RB; in a run the cell holds a value and the output is
open. -/
def Obligations.WrvWritesOneVideoByte : Prop :=
  (∀ (s : State) (v : Byte), s.oc < videoSize s.cfg → Memory.read s.rb s.oc = some v → s.isOpen = true →
    exec .wrv s = .next { s with
      out := s.out ++ [v],
      oc := if s.oc + 1 = videoSize s.cfg then 0 else s.oc + 1,
      ph := if s.oc + 1 = videoSize s.cfg then (if chunkLen s.cfg = 0 then encode .nxt else encode .wra)
        else encode .wrv }) ∧
  (∀ (k : Nat) (s : State), Inv k s → s.ph = encode .wrv →
    s.oc < videoSize s.cfg ∧ s.isOpen = true ∧ ∃ v, Memory.read s.rb s.oc = some v)

/-- R110: WRA appends cell OC of AB to OUT and changes no cell of AB; in a run N > 0, the cell holds a value and the
output is open. -/
def Obligations.WraWritesOneAudioByte : Prop :=
  (∀ (s : State) (v : Byte), s.oc < chunkLen s.cfg → Memory.read s.ab s.oc = some v → s.isOpen = true →
    exec .wra s = .next { s with
      out := s.out ++ [v],
      oc := if s.oc + 1 = chunkLen s.cfg then 0 else s.oc + 1,
      ph := if s.oc + 1 = chunkLen s.cfg then encode .nxt else encode .wra }) ∧
  (∀ (k : Nat) (s : State), Inv k s → s.ph = encode .wra →
    0 < chunkLen s.cfg ∧ s.oc < chunkLen s.cfg ∧ s.isOpen = true ∧ ∃ v, Memory.read s.ab s.oc = some v)

/-- R111: NXT counts the record modulo 2^32, clears AC, and repeats the frame's record or goes to the next frame; it
touches no packer register and no buffer; in a run the record just written is then wholly in OUT. -/
def Obligations.NxtCountsTheRecord : Prop :=
  (∀ s : State, s.dc + 1 = s.cfg.dup →
    exec .nxt s = .next { s with rc := s.rc + 1, ac := 0, dc := 0, ph := encode .fetch }) ∧
  (∀ s : State, s.dc + 1 ≠ s.cfg.dup →
    exec .nxt s = .next { s with
      rc := s.rc + 1, ac := 0, dc := s.dc + 1,
      ph := if chunkLen s.cfg = 0 then encode .wrv else encode .lda }) ∧
  (∀ s : State, (s.rc + 1).toNat = (s.rc.toNat + 1) % 2 ^ 32) ∧
  (∀ (k : Nat) (s : State), Inv k s → s.ph = encode .nxt →
    s.out.length = (k + 1) * recordSize s.cfg ∧ (s.cfg.dup = 1 → s.dc + 1 = s.cfg.dup))

/-- R112: HLT closes the output and ends the run; it does not change CAUSE; it is reached from FETCH with VEND or CANC
and from LDA with AEND. -/
def Obligations.HltClosesTheOutput : Prop :=
  (∀ s : State, exec .hlt s = .next { s with
      isOpen := false, status := { s.status with busy := false, done := true }, ph := encode .endPhase }) ∧
  (∀ (i : Instr) (s t : State), exec i s = .next t → t.ph = encode .hlt →
    (i = .fetch ∧ (t.status.cause = .vend ∨ t.status.cause = .canc)) ∨ (i = .lda ∧ t.status.cause = .aend))

/-- 42_multiplexer.md section 1 (R113, R114): END and ERR have no operation and no step. That this is a stop named
stuckEnd or stuckErr is the model's way of saying it (log entry 6). -/
def Obligations.FinalPhasesStop : Prop :=
  (∀ s : State, exec .endPhase s = .fault .stuckEnd) ∧ (∀ s : State, exec .errPhase s = .fault .stuckErr)

/-- R113, R114: a final phase has no step but a reset; DONE or ERRF is 1 and OPEN is 0 there in every run; ERR is entered
only by fault entry. -/
def Obligations.FinalPhasesHaveNoStep : Prop :=
  (∀ s : State, RunOver s → s.pins.reset = false → ∀ t, step s ≠ .next t) ∧
  (∀ s : State, s.cfg.valid = true → s.env.conforms s.cfg = true → RunOver s → s.pins.reset = true →
    ∃ t, step s = .next t ∧ t.ph = encode .idle) ∧
  (∀ (k : Nat) (s : State), Inv k s → s.ph = encode .endPhase → s.status.done = true ∧ s.isOpen = false) ∧
  (∀ (k : Nat) (s : State), Inv k s → s.ph = encode .errPhase → s.status.errf = true ∧ s.isOpen = false ∧
    (s.status.cause = .vfail ∨ s.status.cause = .afail)) ∧
  (∀ (i : Instr) (s t : State), exec i s = .next t → t.ph = encode .errPhase →
    (i = .fetch ∧ t = { s with poll := s.poll + 1 }.raise .videoDecodeFailure) ∨
      (i = .lda ∧ t = s.raise .audioDecodeFailure))

/-- 10_state.md section 7 (buffers hold no value until written; a model should fault rather than return one): where an
operation stops, outside every run. The stops' names, and those of an index a buffer does not have and of a closed
output, are the model's (log entries 7, 8, 9). -/
def Obligations.StopsOutsideRuns : Prop :=
  (∀ s : State, s.fb = none → exec .shift s = .fault (.noValue .fb)) ∧
  (∀ s : State, s.fb ≠ none → (s.cfg.h ≤ s.ry ∨ s.cfg.w ≤ s.cx) → exec .shift s = .fault (.noSuchCell .fb)) ∧
  (∀ s : State, videoSize s.cfg ≤ s.bi → exec .stb s = .fault (.noSuchCell .rb)) ∧
  (∀ s : State, chunkLen s.cfg ≤ s.ac → exec .qnt s = .fault (.noSuchCell .ab)) ∧
  (∀ s : State, s.oc < videoSize s.cfg → Memory.read s.rb s.oc = none → exec .wrv s = .fault (.noValue .rb)) ∧
  (∀ s : State, videoSize s.cfg ≤ s.oc → exec .wrv s = .fault (.noSuchCell .rb)) ∧
  (∀ (s : State) (v : Byte), s.oc < videoSize s.cfg → Memory.read s.rb s.oc = some v → s.isOpen = false →
    exec .wrv s = .fault .outputClosed) ∧
  (∀ s : State, s.oc < chunkLen s.cfg → Memory.read s.ab s.oc = none → exec .wra s = .fault (.noValue .ab)) ∧
  (∀ s : State, chunkLen s.cfg ≤ s.oc → exec .wra s = .fault (.noSuchCell .ab)) ∧
  (∀ (s : State) (v : Byte), s.oc < chunkLen s.cfg → Memory.read s.ab s.oc = some v → s.isOpen = false →
    exec .wra s = .fault .outputClosed)

/-! ### The whole machine -/

/-- R119: the transition table, its conditions on the values after the operation's own updates; no step goes anywhere
else; and in a run every non-final phase has a step for which some row's condition holds. (The rows of one phase exclude
each other by their form, so exactly one does; those of IDLE, FETCH, LDA and HLT are exhaustive by their form too.) -/
def Obligations.TransitionTable : Prop :=
  (∀ s t : State, step s = .next t → s.pins.reset = true → t.ph = encode .idle) ∧
  (∀ (i : Instr) (s t : State), s.ph = encode i → s.pins.reset = false → step s = .next t →
    (∃ j ∈ i.successors, t.ph = encode j) ∧
    match i with
    | .idle => t.ph = if s.pins.start = true then encode .fetch else encode .idle
    | .fetch =>
        (cancelAt s.env s.poll = true → t.ph = encode .hlt) ∧
        (cancelAt s.env s.poll = false → ∀ b, videoAnswer s = .frame b → t.ph = encode .shift) ∧
        (cancelAt s.env s.poll = false → videoAnswer s = .eos → t.ph = encode .hlt) ∧
        (cancelAt s.env s.poll = false → videoAnswer s = .fail → t.ph = encode .errPhase)
    | .shift =>
        (t.bc = 8 → t.ph = encode .stb) ∧ (t.bc < 8 → t.cx = s.cfg.w → t.ph = encode .pad) ∧
        (t.bc < 8 → t.cx < s.cfg.w → t.ph = encode .shift)
    | .pad => (t.bc = 8 → t.ph = encode .stb) ∧ (t.bc < 8 → t.ph = encode .pad)
    | .stb =>
        (s.cx < s.cfg.w → t.ph = encode .shift) ∧
        (s.cx = s.cfg.w → 0 < chunkLen s.cfg → t.ph = encode .lda) ∧
        (s.cx = s.cfg.w → chunkLen s.cfg = 0 → t.ph = encode .wrv)
    | .lda =>
        (∀ v, audioAnswer s = .byte v → t.ph = encode .qnt) ∧
        (audioAnswer s = .short → t.ph = encode .hlt) ∧ (audioAnswer s = .fail → t.ph = encode .errPhase)
    | .qnt =>
        (t.ac < chunkLen s.cfg → t.ph = encode .lda) ∧ (t.ac = chunkLen s.cfg → t.ph = encode .wrv)
    | .wrv =>
        (s.oc + 1 < videoSize s.cfg → t.ph = encode .wrv) ∧
        (s.oc + 1 = videoSize s.cfg → 0 < chunkLen s.cfg → t.ph = encode .wra) ∧
        (s.oc + 1 = videoSize s.cfg → chunkLen s.cfg = 0 → t.ph = encode .nxt)
    | .wra =>
        (s.oc + 1 < chunkLen s.cfg → t.ph = encode .wra) ∧ (s.oc + 1 = chunkLen s.cfg → t.ph = encode .nxt)
    | .nxt =>
        (s.dc + 1 = s.cfg.dup → t.ph = encode .fetch) ∧
        (s.dc + 1 < s.cfg.dup → 0 < chunkLen s.cfg → t.ph = encode .lda) ∧
        (s.dc + 1 < s.cfg.dup → chunkLen s.cfg = 0 → t.ph = encode .wrv)
    | .hlt => t.ph = encode .endPhase
    | .endPhase => False
    | .errPhase => False) ∧
  (∀ (k : Nat) (s : State), Inv k s → s.pins.reset = false → ¬ RunOver s → ∃ t, step s = .next t ∧
    (s.ph = encode .shift → t.bc = 8 ∨ (t.bc < 8 ∧ (t.cx = s.cfg.w ∨ t.cx < s.cfg.w))) ∧
    (s.ph = encode .pad → t.bc = 8 ∨ t.bc < 8) ∧
    (s.ph = encode .stb → s.cx < s.cfg.w ∨ s.cx = s.cfg.w) ∧
    (s.ph = encode .qnt → t.ac < chunkLen s.cfg ∨ t.ac = chunkLen s.cfg) ∧
    (s.ph = encode .wrv → s.oc + 1 < videoSize s.cfg ∨ s.oc + 1 = videoSize s.cfg) ∧
    (s.ph = encode .wra → s.oc + 1 < chunkLen s.cfg ∨ s.oc + 1 = chunkLen s.cfg) ∧
    (s.ph = encode .nxt → s.dc + 1 = s.cfg.dup ∨ s.dc + 1 < s.cfg.dup))

/-- 10_state.md sections 2 to 6: who writes each register, each flag, each buffer, each cursor. What an operation is not
named for it leaves as it was. -/
def Obligations.WritersOfEachRegister : Prop :=
  ∀ (i : Instr) (s t : State), exec i s = .next t →
    (i ≠ .fetch → t.fb = s.fb) ∧
    (i ∉ [.fetch, .shift] → t.cx = s.cx ∧ t.ry = s.ry) ∧
    (i ∉ [.fetch, .shift, .pad, .stb] → t.sr = s.sr ∧ t.bc = s.bc) ∧
    (i ∉ [.fetch, .stb] → t.bi = s.bi) ∧
    (i ≠ .stb → ∀ a, Memory.read t.rb a = Memory.read s.rb a) ∧
    (i ≠ .lda → t.smp = s.smp) ∧
    (i ∉ [.fetch, .qnt, .lda, .nxt] → t.ac = s.ac) ∧
    (i ≠ .qnt → ∀ a, Memory.read t.ab a = Memory.read s.ab a) ∧
    (i ∉ [.fetch, .wrv, .wra] → t.oc = s.oc) ∧
    (i ∉ [.fetch, .nxt] → t.dc = s.dc) ∧
    (i ≠ .nxt → t.rc = s.rc) ∧
    (i ∉ [.idle, .hlt, .fetch, .lda] → t.status = s.status ∧ t.isOpen = s.isOpen) ∧
    (i ∈ [.idle, .hlt] → t.status.cause = s.status.cause) ∧
    (i ∈ [.fetch, .lda] → t.ph ≠ encode .errPhase →
      t.status.busy = s.status.busy ∧ t.status.done = s.status.done ∧ t.status.errf = s.status.errf ∧
      t.isOpen = s.isOpen) ∧
    (i ≠ .fetch → t.vcur = s.vcur ∧ t.poll = s.poll) ∧
    (i ≠ .lda → t.acur = s.acur) ∧
    (i ∉ [.wrv, .wra] → t.out = s.out) ∧
    t.cfg = s.cfg ∧ t.env = s.env ∧ t.pins = s.pins

/-- 20_memory.md section 1 and 10_state.md section 6: the cursors only advance, by one unit at most, and nothing removes
or changes a byte of OUT once appended. -/
def Obligations.CursorsOnlyAdvance : Prop :=
  ∀ s t : State, s.pins.reset = false → step s = .next t →
    (t.vcur = s.vcur ∨ t.vcur = s.vcur + 1) ∧ (t.acur = s.acur ∨ t.acur = s.acur + 1) ∧
    (t.poll = s.poll ∨ t.poll = s.poll + 1) ∧ (t.out = s.out ∨ ∃ v, t.out = s.out ++ [v]) ∧
    (t.vcur ≠ s.vcur → s.vcur < s.env.frames.length) ∧ (t.acur ≠ s.acur → s.acur < s.env.audio.length)

/-- R42 at reset: the invariant and the stream invariant hold of the reset state with no record committed. -/
def Obligations.ResetMeetsInvariants : Prop :=
  ∀ (c : Cfg) (e : Env) (p : Pins), c.valid = true → e.conforms c = true →
    Inv 0 (State.resetWith c e p) ∧ StreamInv 0 (State.resetWith c e p)

/-- 10_state.md section 7: every step keeps the invariant (a) to (h), with NXT counting a record and reset starting the
count anew. -/
def Obligations.StepKeepsInvariant : Prop :=
  ∀ (k : Nat) (s t : State), Inv k s → step s = .next t → Inv (nextCount k s) t

/-- Every step keeps the stream invariant: OUT is the first K ideal records and the written part of record K. -/
def Obligations.StepKeepsStreamInvariant : Prop :=
  ∀ (k : Nat) (s t : State), Inv k s → StreamInv k s → step s = .next t → StreamInv (nextCount k s) t

/-- 42_multiplexer.md section 3 and 10_state.md section 7: in a run no step stops (no buffer element without a value is
read, no cell that does not exist is addressed, no byte is written to a closed output) but in the final phases, whose
stops are named by the model (log entry 6). -/
def Obligations.RunsNeverGetStuck : Prop :=
  ∀ (k : Nat) (s : State), Inv k s →
    (∃ t, step s = .next t) ∨
    (s.pins.reset = false ∧ s.ph = encode .endPhase ∧ step s = .fault .stuckEnd) ∨
    (s.pins.reset = false ∧ s.ph = encode .errPhase ∧ step s = .fault .stuckErr)

/-- 20_memory.md sections 4 and 5: outside the commit OUT holds whole records, and RC is their number modulo 2^32; in
particular at every FETCH, HLT, END and ERR. At most one of BUSY, DONE and ERRF is 1, and in the final phases bit 2 of
CAUSE equals ERRF. -/
def Obligations.WholeRecordsOutsideCommits : Prop :=
  ∀ (k : Nat) (s : State), Inv k s →
    (s.ph ≠ encode .wrv → s.ph ≠ encode .wra →
      s.out.length % recordSize s.cfg = 0 ∧
      (s.ph ≠ encode .nxt → hostRecordCount s = BitVec.ofNat 32 (s.out.length / recordSize s.cfg))) ∧
    (s.status.busy.toNat + s.status.done.toNat + s.status.errf.toNat ≤ 1) ∧
    (RunOver s → s.isOpen = false ∧ s.status.busy = false ∧ s.status.cause.code.getLsbD 2 = s.status.errf)

/-! ### Whole runs -/

/-- 40_packer.md section 3, the packing theorem: from the state FETCH leaves with a frame, 9*VIDEO_SIZE steps, exactly the
macro PACK, store pack(B) in RB, and touch no cursor and nothing of OUT. -/
def Obligations.PackingStoresThePackedRecord : Prop :=
  ∀ (s : State) (b : Bitmap), s.cfg.valid = true → s.env.conforms s.cfg = true → s.pins.reset = false →
    s.ph = encode .shift → s.fb = some b → Bitmap.fits s.cfg b = true →
    s.cx = 0 → s.ry = 0 → s.sr = 0 → s.bc = 0 → s.bi = 0 →
    ∃ m,
      runFor (9 * videoSize s.cfg) s = .next { s with
        rb := m, cx := s.cfg.w, bi := videoSize s.cfg,
        ph := if chunkLen s.cfg = 0 then encode .wrv else encode .lda } ∧
      (∀ j, j < videoSize s.cfg → (pack s.cfg b)[j]? = Memory.read m j) ∧
      (∀ j, videoSize s.cfg ≤ j → Memory.read m j = Memory.read s.rb j) ∧
      opsOf (9 * videoSize s.cfg) s = packMacro s.cfg

/-- 41_audio_quantizer.md section 3, the chunk theorem: with N bytes left, the macro CHUNK stages the quantized chunk and
leads to WRV; with fewer, the missing byte's LDA ends the run. -/
def Obligations.ChunkStagesTheSamples : Prop :=
  ∀ s : State, s.cfg.valid = true → s.env.conforms s.cfg = true → s.pins.reset = false →
    s.ph = encode .lda → s.ac = 0 → 0 < chunkLen s.cfg →
    (s.acur + chunkLen s.cfg ≤ s.env.audio.length →
      ∃ m v,
        runFor (2 * chunkLen s.cfg) s = .next { s with
          ab := m, smp := v, ac := chunkLen s.cfg, acur := s.acur + chunkLen s.cfg, ph := encode .wrv } ∧
        s.env.audio[s.acur + chunkLen s.cfg - 1]? = some v ∧
        (∀ i, i < chunkLen s.cfg → ∃ a, s.env.audio[s.acur + i]? = some a ∧
          Memory.read m i = some (quant s.cfg a)) ∧
        opsOf (2 * chunkLen s.cfg) s = chunkMacro s.cfg) ∧
    (s.acur ≤ s.env.audio.length → s.env.audio.length < s.acur + chunkLen s.cfg →
      ∃ t, runFor (2 * (s.env.audio.length - s.acur) + 1) s = .next t ∧
        t.acur = s.env.audio.length ∧ t.out = s.out ∧ t.fb = s.fb ∧ t.rc = s.rc ∧ t.vcur = s.vcur ∧
        (∀ a, Memory.read t.rb a = Memory.read s.rb a) ∧
        (s.env.aend = .short → t.ph = encode .hlt ∧ t.status = { s.status with cause := .aend } ∧ t.ac = 0) ∧
        (s.env.aend = .fail → t.ph = encode .errPhase ∧ t.isOpen = false ∧
          t.status = { s.status with busy := false, errf := true, cause := .afail }))

/-- 42_multiplexer.md section 2 (staging and commit): once begun, the commit always finishes; it is exactly the macro
COMMIT, it appends the staged record and nothing else to OUT, and it asks no source and polls no cancel. -/
def Obligations.CommitWritesTheStagedRecord : Prop :=
  ∀ (s : State) (v a : List Byte), s.cfg.valid = true → s.env.conforms s.cfg = true → s.pins.reset = false →
    s.ph = encode .wrv → s.oc = 0 → s.isOpen = true →
    v.length = videoSize s.cfg → a.length = chunkLen s.cfg →
    (∀ j, j < videoSize s.cfg → Memory.read s.rb j = v[j]?) →
    (∀ j, j < chunkLen s.cfg → Memory.read s.ab j = a[j]?) →
    runFor (videoSize s.cfg + chunkLen s.cfg + 1) s = .next { s with
      out := s.out ++ v ++ a, rc := s.rc + 1, ac := 0,
      dc := if s.dc + 1 = s.cfg.dup then 0 else s.dc + 1,
      ph := if s.dc + 1 = s.cfg.dup then encode .fetch
        else if chunkLen s.cfg = 0 then encode .wrv else encode .lda } ∧
    opsOf (videoSize s.cfg + chunkLen s.cfg + 1) s = commitMacro s.cfg

/-- 43_stream_contract.md section 2, the run theorem with the cause and the cursors: every run ends, and OUT is exactly
the first K records of the ideal stream, whole, whatever ended it. -/
def Obligations.RunWritesTheIdealStream : Prop :=
  ∀ (c : Cfg) (e : Env), c.valid = true → e.conforms c = true →
    ∃ n t, runFor n (State.launch c e) = .next t ∧
      t.ph = encode (endCause c e).finalPhase ∧
      t.out = stream c e (recordCount c e) ∧ t.out.length = recordCount c e * recordSize c ∧
      t.rc = BitVec.ofNat 32 (recordCount c e) ∧ t.isOpen = false ∧
      t.status = (endCause c e).finalStatus ∧
      t.vcur = finalVcur c e ∧ t.acur = finalAcur c e ∧ t.poll = finalPoll c e

/-- The same through the host's interface: some number of steps of `Sys2Proof.core` from the launch state reaches a state
from which the machine takes no further step, with the ideal stream written and the output closed. -/
def Obligations.CoreRunsEnd : Prop :=
  ∀ (c : Cfg) (e : Env), c.valid = true → e.conforms c = true →
    ∃ (n : Nat) (t : State), Host.Core.run Sys2Proof.core n (State.launch c e) = .next t ∧
      (∀ u, Sys2Proof.core.step t ≠ .next u) ∧ RunOver t ∧ t.isOpen = false ∧
      t.out = stream c e (recordCount c e)

/-- 30_encoding.md section 5: a run with enough audio, no cancel and a video source that ends with EOS is exactly the
macro RUN(NF). -/
def Obligations.CompleteRunIsTheRunMacro : Prop :=
  ∀ (c : Cfg) (e : Env), c.valid = true → e.conforms c = true →
    NotCancelledBefore e (e.frames.length + 1) → e.vend = .eos →
    c.dup * e.frames.length * chunkLen c ≤ e.audio.length →
    ∃ n t, n = (runMacro c e.frames.length).length ∧ runFor n (State.launch c e) = .next t ∧
      opsOf n (State.launch c e) = runMacro c e.frames.length ∧
      t.ph = encode .endPhase ∧ t.status.cause = .vend ∧ hostStatus t = 0x12#8 ∧
      t.out = stream c e (c.dup * e.frames.length)

/-- 30_encoding.md section 5: the step counts of the macros. -/
def Obligations.MacroStepCounts : Prop :=
  ∀ (c : Cfg) (nf : Nat),
    (packMacro c).length = npix c + npad c + videoSize c ∧ (packMacro c).length = 9 * videoSize c ∧
    (chunkMacro c).length = 2 * chunkLen c ∧
    (commitMacro c).length = videoSize c + chunkLen c + 1 ∧
    (frameMacro c).length = 1 + 9 * videoSize c + c.dup * (3 * chunkLen c + videoSize c + 1) ∧
    (runMacro c nf).length =
      1 + nf * (1 + 9 * videoSize c + c.dup * (3 * chunkLen c + videoSize c + 1)) + 2

/-- R129: with a ratio of 1:2, one frame and two chunks give exactly two records with the identical video record and
the first and second chunk of the audio. -/
def Obligations.DuplicationWritesTheRecordTwice : Prop :=
  ∀ (c : Cfg) (e : Env) (b : Bitmap), c.valid = true → e.conforms c = true → c.dup = 2 →
    e.frames = [b] → e.audio.length = 2 * chunkLen c → e.vend = .eos → NotCancelledBefore e 2 →
    ∃ n t, runFor n (State.launch c e) = .next t ∧ t.ph = encode .endPhase ∧ t.status.cause = .vend ∧
      t.rc = 2 ∧ t.vcur = 1 ∧
      t.out = pack c b ++ (e.audio.take (chunkLen c)).map (quant c)
        ++ (pack c b ++ (e.audio.drop (chunkLen c)).map (quant c))

/-- 42_multiplexer.md section 2: cancel changes only where the stream stops. The OUT of a cancelled run is a prefix, a
whole number of frames long, of the OUT of the same run not cancelled. -/
def Obligations.CancelledRunIsAPrefix : Prop :=
  ∀ (c : Cfg) (e : Env) (cs : List Bool) (n m : Nat) (t u : State), c.valid = true → e.conforms c = true →
    NotCancelledBefore { e with cancel := cs } (e.frames.length + 1) →
    runFor n (State.launch c e) = .next t → RunOver t →
    runFor m (State.launch c { e with cancel := cs }) = .next u → RunOver u →
    (∃ w, u.out = t.out ++ w) ∧
    (t.status.cause = .canc → t.out.length = t.vcur * (c.dup * recordSize c))

/-- R128: every ideal record has length ⌈W×H/8⌉ + (sample_rate div frame_rate), a stream of K records K times that, and
at the end of every run the output has that length for the K of RC. -/
def Obligations.RecordSizeInvariant : Prop :=
  (∀ (c : Cfg) (e : Env) (k : Nat), (srec c e k).length = (c.w * c.h + 7) / 8 + c.sampleRate / c.frameRate ∧
    (stream c e k).length = k * ((c.w * c.h + 7) / 8 + c.sampleRate / c.frameRate)) ∧
  (∀ (c : Cfg) (e : Env) (n : Nat) (t : State), c.valid = true → e.conforms c = true →
    runFor n (State.launch c e) = .next t → RunOver t →
    ∃ k, t.rc = BitVec.ofNat 32 k ∧ t.out = stream c e k ∧
      t.out.length = k * ((c.w * c.h + 7) / 8 + c.sampleRate / c.frameRate))

/-- 43_stream_contract.md section 3, the Reader's parse applied to the output of a run: it gives back the frames, each DUP
times, up to the record count, with no diagnostic. -/
def Obligations.ReaderRecoversTheFrames : Prop :=
  ∀ (c : Cfg) (e : Env) (n : Nat) (t : State), c.valid = true → e.conforms c = true →
    runFor n (State.launch c e) = .next t → RunOver t →
    readerMismatch c t.out = false ∧
    readerParse c t.out = (List.range (recordCount c e)).map fun k => e.frames.getD (k / c.dup) []
end

