-- ==== Sys2Proof/Laws/Decode.lean ====
section
/-! SUPPORT. The codes (spec/30_encoding.md R75, R76): decoding and encoding undo each other, the two agree with the
rows of spec/opcode_table.json, no two rows overlap. -/

namespace Sys2Proof

@[simp] theorem decode_encode (i : Instr) : decode (encode i) = .ok i := by cases i <;> rfl

theorem encode_of_decode (code : BitVec 4) (i : Instr) (h : decode code = .ok i) : encode i = code := by
  revert h
  revert code
  cases i <;> decide

/-- `decode` accepts exactly the codes of the operation map. -/
theorem decode_ok_iff (code : BitVec 4) (i : Instr) : decode code = .ok i ↔ code = encode i :=
  ⟨fun h => (encode_of_decode code i h).symm, fun h => by rw [h, decode_encode]⟩

theorem encode_injective : Function.Injective encode := fun i j h => by
  have := decode_encode i
  rw [h, decode_encode] at this
  exact (Except.ok.inj this).symm

@[simp] theorem encode_inj (i j : Instr) : encode i = encode j ↔ i = j := encode_injective.eq_iff

/-- A code is rejected by its own name, or names the operation in its place of the map. -/
theorem decode_cases : ∀ code : BitVec 4,
    (12 < code.toNat ∧ decode code = .error (.reservedPhase code)) ∨
    (code.toNat ≤ 12 ∧ decode code = .ok (Instr.all.getD code.toNat .idle)) := by decide

/-- Exactly the codes above 12 are rejected (R76). -/
theorem decode_error_iff (code : BitVec 4) (e : DecodeError) :
    decode code = .error e ↔ 12 < code.toNat ∧ e = .reservedPhase code := by
  rcases decode_cases code with ⟨h, hd⟩ | ⟨h, hd⟩
  · simp [hd, h, eq_comm]
  · simp [hd, Nat.not_lt.2 h]

/-- Every operation has one row in the table, with its code as pattern. -/
theorem opTable_pattern : ∀ r ∈ opTable, r.pattern = (encode r.instr).toNat ∧ r.mask = 0xF := by decide

theorem opTable_complete : opTable.map OpRow.instr = Instr.all := rfl

/-- No two rows overlap under their common mask. -/
theorem opTable_disjoint : opTable.Pairwise fun r q => r.pattern &&& r.mask ≠ q.pattern &&& q.mask := by decide

theorem decodeTableWord_row : ∀ r ∈ opTable, decodeTableWord 8 r.pattern = some r.instr := by decide

end Sys2Proof
end

