-- ==== Sys2Proof/Laws/Memory.lean ====
section
/-! SUPPORT. The byte buffers (spec/10_state.md R25, R28, R43): a write is read back at its own cell and leaves every
other cell alone, every operation keeps the canonical form, and the reads and writes with their bounds. -/

namespace Sys2Proof.Machine

@[simp] theorem Memory.read_nil (a : Nat) : Memory.read [] a = none := rfl

@[simp] theorem Memory.wf_nil : Memory.wf [] = true := rfl

/-- A canonical buffer's cells lie above its first. -/
theorem Memory.read_below (x : Host.Cell) (m : Memory) (h : Memory.wf (x :: m) = true) (a : Nat) (ha : a ≤ x.1) :
    Memory.read m a = none := by
  induction m generalizing x with
  | nil => rfl
  | cons y m ih =>
    simp only [Memory.wf, Bool.and_eq_true, decide_eq_true_eq] at h
    have hne : a ≠ y.1 := by omega
    simp only [Memory.read, if_neg hne]
    exact ih y h.2 (by omega)

/-- Read after write. -/
theorem Memory.read_write (m : Memory) (a : Nat) (v : Byte) (b : Nat) :
    Memory.read (Memory.write m a v) b = if b = a then some v else Memory.read m b := by
  induction m with
  | nil => rfl
  | cons x m ih =>
    simp only [Memory.write]
    split
    · rfl
    · rename_i hlt
      split
      · rename_i heq
        subst heq
        simp only [Memory.read]
        split <;> rfl
      · rename_i hne
        simp only [Memory.read, ih]
        by_cases hb : b = x.1
        · subst hb
          rw [if_pos rfl, if_pos rfl, if_neg (fun h => hne h.symm)]
        · rw [if_neg hb, if_neg hb]

@[simp] theorem Memory.read_write_same (m : Memory) (a : Nat) (v : Byte) :
    Memory.read (Memory.write m a v) a = some v := by
  rw [Memory.read_write, if_pos rfl]

theorem Memory.read_write_other (m : Memory) (a : Nat) (v : Byte) (b : Nat) (h : b ≠ a) :
    Memory.read (Memory.write m a v) b = Memory.read m b := by
  rw [Memory.read_write, if_neg h]

/-- The first cell of a canonical buffer may be preceded by any lower one. -/
theorem Memory.wf_cons_of (x y : Host.Cell) (m : Memory) (hxy : x.1 < y.1) (h : Memory.wf (y :: m) = true) :
    Memory.wf (x :: y :: m) = true := by
  simp [Memory.wf, hxy, h]

theorem Memory.wf_tail (x : Host.Cell) (m : Memory) (h : Memory.wf (x :: m) = true) : Memory.wf m = true := by
  cases m with
  | nil => rfl
  | cons y m =>
    simp only [Memory.wf, Bool.and_eq_true] at h
    exact h.2

/-- A write below nothing of `m`'s head keeps the form under a lower cell `x`. -/
theorem Memory.wf_cons_write (x : Host.Cell) (m : Memory) (h : Memory.wf (x :: m) = true) (a : Nat) (v : Byte)
    (ha : x.1 < a) : Memory.wf (x :: Memory.write m a v) = true := by
  induction m generalizing x with
  | nil => simp [Memory.write, Memory.wf, ha]
  | cons y m ih =>
    have hy : x.1 < y.1 ∧ Memory.wf (y :: m) = true := by simpa [Memory.wf] using h
    simp only [Memory.write]
    split
    · rename_i hlt
      exact Memory.wf_cons_of _ _ _ ha (Memory.wf_cons_of _ _ _ hlt hy.2)
    · split
      · rename_i heq
        have : Memory.wf ((a, v) :: m) = true := by
          subst heq
          cases m with
          | nil => rfl
          | cons z m =>
            have hz : y.1 < z.1 ∧ Memory.wf (z :: m) = true := by simpa [Memory.wf] using hy.2
            exact Memory.wf_cons_of _ _ _ hz.1 hz.2
        exact Memory.wf_cons_of _ _ _ ha this
      · rename_i hlt hne
        exact Memory.wf_cons_of _ _ _ hy.1 (ih y hy.2 (by omega))

/-- Every write keeps the canonical form. -/
theorem Memory.wf_write (m : Memory) (a : Nat) (v : Byte) (h : Memory.wf m = true) :
    Memory.wf (Memory.write m a v) = true := by
  cases m with
  | nil => rfl
  | cons x m =>
    simp only [Memory.write]
    split
    · rename_i hlt
      exact Memory.wf_cons_of _ _ _ hlt h
    · split
      · rename_i heq
        subst heq
        cases m with
        | nil => rfl
        | cons z m =>
          have hz : x.1 < z.1 ∧ Memory.wf (z :: m) = true := by simpa [Memory.wf] using h
          exact Memory.wf_cons_of _ _ _ hz.1 hz.2
      · exact Memory.wf_cons_write x m h a v (by omega)

/-- `readCell` gives a value iff the cell exists and holds it. -/
theorem readCell_ok_iff (b : BufferId) (size : Nat) (m : Memory) (i : Nat) (v : Byte) :
    readCell b size m i = .ok v ↔ i < size ∧ Memory.read m i = some v := by
  unfold readCell
  split
  · split <;> simp_all
  · simp_all

/-- Why `readCell` gives none: the cell does not exist, or holds no value. -/
theorem readCell_error_iff (b : BufferId) (size : Nat) (m : Memory) (i : Nat) (f : Fault) :
    readCell b size m i = .error f ↔
      (i < size ∧ Memory.read m i = none ∧ f = .noValue b) ∨ (size ≤ i ∧ f = .noSuchCell b) := by
  unfold readCell
  by_cases h : i < size
  · have h' : ¬ size ≤ i := by omega
    cases hr : Memory.read m i <;> simp [h, h', eq_comm]
  · have h' : size ≤ i := by omega
    simp [h, h', eq_comm]

/-- `writeCell` writes iff the cell exists. -/
theorem writeCell_ok_iff (b : BufferId) (size : Nat) (m m' : Memory) (i : Nat) (v : Byte) :
    writeCell b size m i v = .ok m' ↔ i < size ∧ m' = Memory.write m i v := by
  unfold writeCell
  split <;> simp_all [eq_comm]

theorem writeCell_error_iff (b : BufferId) (size : Nat) (m : Memory) (i : Nat) (v : Byte) (f : Fault) :
    writeCell b size m i v = .error f ↔ size ≤ i ∧ f = .noSuchCell b := by
  unfold writeCell
  by_cases h : i < size
  · have h' : ¬ size ≤ i := by omega
    simp [h, h']
  · have h' : size ≤ i := by omega
    simp [h, h', eq_comm]

/-- `pixelOperand` gives the pixel iff FB holds a value that has the cell. -/
theorem pixelOperand_ok_iff (c : Cfg) (fb : Option Bitmap) (y x : Nat) (p : Bool) :
    pixelOperand c fb y x = .ok p ↔
      ∃ b row, fb = some b ∧ y < c.h ∧ x < c.w ∧ b[y]? = some row ∧ row[x]? = some p := by
  unfold pixelOperand
  cases fb with
  | none => simp
  | some b =>
    by_cases hr : y < c.h ∧ x < c.w
    · simp only [if_pos hr]
      cases hb : b[y]? with
      | none => simp [hb]
      | some row =>
        cases hx : row[x]? with
        | none => simp [hb, hx]
        | some q => simp [hb, hx, hr]
    · simp only [if_neg hr]
      constructor
      · intro h; cases h
      · rintro ⟨_, _, _, hy, hx, _⟩; exact absurd ⟨hy, hx⟩ hr

end Sys2Proof.Machine
end

