-- ==== Sys2Proof/Laws/Operands.lean ====
section
/-! SUPPORT. The constants (spec/00_scope.md R10, R11) and the operands: what a valid configuration gives, the sizes'
bounds, the pixel of a bitmap that fits, the traversal counters, the shift register's bits, the quantizer. -/

namespace Sys2Proof.Machine

/-- What a valid configuration is (R11). -/
theorem Cfg_valid_iff (c : Cfg) : c.valid = true ↔
    1 ≤ c.w ∧ 1 ≤ c.h ∧ 1 ≤ c.sampleRate ∧ 1 ≤ c.frameRate ∧ c.shift ≤ 7 ∧ (c.dup = 1 ∨ c.dup = 2) := by
  simp [Cfg.valid, and_assoc]

/-- The record has room for every pixel and fewer than 8 pads: 0 <= NPAD <= 7 (R10). -/
theorem npix_le_videoSize (c : Cfg) : npix c ≤ 8 * videoSize c ∧ 8 * videoSize c < npix c + 8 := by
  unfold videoSize; omega

theorem npix_add_npad (c : Cfg) : npix c + npad c = 8 * videoSize c := by
  have := npix_le_videoSize c; unfold npad; omega

/-- "VIDEO_SIZE >= 1 in every valid configuration" (R11). -/
theorem videoSize_pos (c : Cfg) (h : c.valid = true) : 1 ≤ videoSize c := by
  obtain ⟨hw, hh, -⟩ := (Cfg_valid_iff c).1 h
  have : 1 ≤ npix c := Nat.mul_pos hw hh
  unfold videoSize; omega

/-- A bitmap that fits has H rows of W pixels (R5). -/
theorem fits_iff (c : Cfg) (b : Bitmap) :
    Bitmap.fits c b = true ↔ b.length = c.h ∧ ∀ row ∈ b, row.length = c.w := by
  simp [Bitmap.fits]

/-- SHIFT's operand in a bitmap that fits is the pixel (R93). -/
theorem pixelOperand_of_fits (c : Cfg) (b : Bitmap) (h : Bitmap.fits c b = true) (y x : Nat) (hy : y < c.h)
    (hx : x < c.w) : pixelOperand c (some b) y x = .ok (pixelAt b y x) := by
  obtain ⟨hl, hrow⟩ := (fits_iff c b).1 h
  have hyb : y < b.length := by omega
  have hr := hrow b[y] (List.getElem_mem hyb)
  have hxr : x < (b[y]).length := by omega
  simp [pixelOperand, pixelAt, hy, hx, List.getElem?_eq_getElem hyb, List.getElem?_eq_getElem hxr]

/-- Every frame of a conforming source fits (R170). -/
theorem conforms_fits (c : Cfg) (e : Env) (h : e.conforms c = true) (b : Bitmap) (hb : b ∈ e.frames) :
    Bitmap.fits c b = true := by
  simp only [Env.conforms, List.all_eq_true] at h
  exact h b hb

/-- The pixel counter PI = CX*H + RY moves on by one (R42 (a), R92). -/
theorem advancePixel_index (c : Cfg) (cx ry : Nat) :
    (advancePixel c cx ry).1 * c.h + (advancePixel c cx ry).2 = cx * c.h + ry + 1 := by
  unfold advancePixel
  split
  · rename_i h
    simp only [Nat.add_mul]
    omega
  · simp only
    omega

/-- The row counter stays below H (R21). -/
theorem advancePixel_row (c : Cfg) (cx ry : Nat) (h : ry < c.h) : (advancePixel c cx ry).2 < c.h := by
  unfold advancePixel
  split
  · simp only; omega
  · simp only; omega

/-- The next column is W exactly when the last pixel was read, and then the row is 0 (R93). -/
theorem advancePixel_column (c : Cfg) (cx ry : Nat) (hx : cx < c.w) :
    (advancePixel c cx ry).1 < c.w ∨ ((advancePixel c cx ry).1 = c.w ∧ (advancePixel c cx ry).2 = 0) := by
  unfold advancePixel
  split
  · by_cases h : cx + 1 = c.w
    · exact Or.inr ⟨h, rfl⟩
    · exact Or.inl (by simp only; omega)
  · exact Or.inl hx

/-- Shifting in doubles and adds the bit, modulo 256 (R14). -/
theorem shiftIn_toNat (sr : Byte) (b : Bool) : (shiftIn sr b).toNat = (2 * sr.toNat + b.toNat) % 256 := by
  revert b
  revert sr
  decide

/-- The new bit is bit 0; the others move up one place (R22). -/
theorem shiftIn_bit_zero (sr : Byte) (b : Bool) : (shiftIn sr b).getLsbD 0 = b := by
  revert b
  revert sr
  decide

theorem shiftIn_bit_succ (sr : Byte) (b : Bool) (j : Nat) (hj : j < 7) :
    (shiftIn sr b).getLsbD (j + 1) = sr.getLsbD j := by
  interval_cases j <;> · revert b; revert sr; decide

/-- `quant(s) = s div 2^SHIFT` (R100). -/
theorem quant_toNat (c : Cfg) (v : Byte) : (quant c v).toNat = v.toNat / 2 ^ c.shift := by
  simp [quant, BitVec.toNat_ushiftRight, Nat.shiftRight_eq_div_pow]

@[simp] theorem pack_length (c : Cfg) (b : Bitmap) : (pack c b).length = videoSize c := by simp [pack]

@[simp] theorem audioChunk_length (c : Cfg) (e : Env) (k : Nat) : (audioChunk c e k).length = chunkLen c := by
  simp [audioChunk]

end Sys2Proof.Machine
end

