-- ==== Sys2Proof/Laws/State.lean ====
section
/-! SUPPORT. One lemma per field per named update of State, true by rfl: what each update writes and what it leaves
(spec/10_state.md R41, R46; spec/60_exceptions.md R147, R148). -/

namespace Sys2Proof.Machine

variable (s : State)

@[simp] theorem State.goto_cfg (i : Instr) : (s.goto i).cfg = s.cfg := rfl
@[simp] theorem State.goto_env (i : Instr) : (s.goto i).env = s.env := rfl
@[simp] theorem State.goto_pins (i : Instr) : (s.goto i).pins = s.pins := rfl
@[simp] theorem State.goto_ph (i : Instr) : (s.goto i).ph = encode i := rfl
@[simp] theorem State.goto_fb (i : Instr) : (s.goto i).fb = s.fb := rfl
@[simp] theorem State.goto_cx (i : Instr) : (s.goto i).cx = s.cx := rfl
@[simp] theorem State.goto_ry (i : Instr) : (s.goto i).ry = s.ry := rfl
@[simp] theorem State.goto_sr (i : Instr) : (s.goto i).sr = s.sr := rfl
@[simp] theorem State.goto_bc (i : Instr) : (s.goto i).bc = s.bc := rfl
@[simp] theorem State.goto_bi (i : Instr) : (s.goto i).bi = s.bi := rfl
@[simp] theorem State.goto_rb (i : Instr) : (s.goto i).rb = s.rb := rfl
@[simp] theorem State.goto_smp (i : Instr) : (s.goto i).smp = s.smp := rfl
@[simp] theorem State.goto_ac (i : Instr) : (s.goto i).ac = s.ac := rfl
@[simp] theorem State.goto_ab (i : Instr) : (s.goto i).ab = s.ab := rfl
@[simp] theorem State.goto_oc (i : Instr) : (s.goto i).oc = s.oc := rfl
@[simp] theorem State.goto_dc (i : Instr) : (s.goto i).dc = s.dc := rfl
@[simp] theorem State.goto_rc (i : Instr) : (s.goto i).rc = s.rc := rfl
@[simp] theorem State.goto_status (i : Instr) : (s.goto i).status = s.status := rfl
@[simp] theorem State.goto_vcur (i : Instr) : (s.goto i).vcur = s.vcur := rfl
@[simp] theorem State.goto_acur (i : Instr) : (s.goto i).acur = s.acur := rfl
@[simp] theorem State.goto_out (i : Instr) : (s.goto i).out = s.out := rfl
@[simp] theorem State.goto_isOpen (i : Instr) : (s.goto i).isOpen = s.isOpen := rfl
@[simp] theorem State.goto_poll (i : Instr) : (s.goto i).poll = s.poll := rfl

@[simp] theorem State.outClose_cfg : s.outClose.cfg = s.cfg := rfl
@[simp] theorem State.outClose_env : s.outClose.env = s.env := rfl
@[simp] theorem State.outClose_pins : s.outClose.pins = s.pins := rfl
@[simp] theorem State.outClose_ph : s.outClose.ph = s.ph := rfl
@[simp] theorem State.outClose_fb : s.outClose.fb = s.fb := rfl
@[simp] theorem State.outClose_cx : s.outClose.cx = s.cx := rfl
@[simp] theorem State.outClose_ry : s.outClose.ry = s.ry := rfl
@[simp] theorem State.outClose_sr : s.outClose.sr = s.sr := rfl
@[simp] theorem State.outClose_bc : s.outClose.bc = s.bc := rfl
@[simp] theorem State.outClose_bi : s.outClose.bi = s.bi := rfl
@[simp] theorem State.outClose_rb : s.outClose.rb = s.rb := rfl
@[simp] theorem State.outClose_smp : s.outClose.smp = s.smp := rfl
@[simp] theorem State.outClose_ac : s.outClose.ac = s.ac := rfl
@[simp] theorem State.outClose_ab : s.outClose.ab = s.ab := rfl
@[simp] theorem State.outClose_oc : s.outClose.oc = s.oc := rfl
@[simp] theorem State.outClose_dc : s.outClose.dc = s.dc := rfl
@[simp] theorem State.outClose_rc : s.outClose.rc = s.rc := rfl
@[simp] theorem State.outClose_status : s.outClose.status = s.status := rfl
@[simp] theorem State.outClose_vcur : s.outClose.vcur = s.vcur := rfl
@[simp] theorem State.outClose_acur : s.outClose.acur = s.acur := rfl
@[simp] theorem State.outClose_out : s.outClose.out = s.out := rfl
@[simp] theorem State.outClose_isOpen : s.outClose.isOpen = false := rfl
@[simp] theorem State.outClose_poll : s.outClose.poll = s.poll := rfl

@[simp] theorem State.terminate_cfg (e : Termination) : (s.terminate e).cfg = s.cfg := rfl
@[simp] theorem State.terminate_env (e : Termination) : (s.terminate e).env = s.env := rfl
@[simp] theorem State.terminate_pins (e : Termination) : (s.terminate e).pins = s.pins := rfl
@[simp] theorem State.terminate_ph (e : Termination) : (s.terminate e).ph = encode .hlt := rfl
@[simp] theorem State.terminate_fb (e : Termination) : (s.terminate e).fb = s.fb := rfl
@[simp] theorem State.terminate_cx (e : Termination) : (s.terminate e).cx = s.cx := rfl
@[simp] theorem State.terminate_ry (e : Termination) : (s.terminate e).ry = s.ry := rfl
@[simp] theorem State.terminate_sr (e : Termination) : (s.terminate e).sr = s.sr := rfl
@[simp] theorem State.terminate_bc (e : Termination) : (s.terminate e).bc = s.bc := rfl
@[simp] theorem State.terminate_bi (e : Termination) : (s.terminate e).bi = s.bi := rfl
@[simp] theorem State.terminate_rb (e : Termination) : (s.terminate e).rb = s.rb := rfl
@[simp] theorem State.terminate_smp (e : Termination) : (s.terminate e).smp = s.smp := rfl
@[simp] theorem State.terminate_ac (e : Termination) : (s.terminate e).ac = s.ac := rfl
@[simp] theorem State.terminate_ab (e : Termination) : (s.terminate e).ab = s.ab := rfl
@[simp] theorem State.terminate_oc (e : Termination) : (s.terminate e).oc = s.oc := rfl
@[simp] theorem State.terminate_dc (e : Termination) : (s.terminate e).dc = s.dc := rfl
@[simp] theorem State.terminate_rc (e : Termination) : (s.terminate e).rc = s.rc := rfl
@[simp] theorem State.terminate_status (e : Termination) : (s.terminate e).status = s.status.terminate e := rfl
@[simp] theorem State.terminate_vcur (e : Termination) : (s.terminate e).vcur = s.vcur := rfl
@[simp] theorem State.terminate_acur (e : Termination) : (s.terminate e).acur = s.acur := rfl
@[simp] theorem State.terminate_out (e : Termination) : (s.terminate e).out = s.out := rfl
@[simp] theorem State.terminate_isOpen (e : Termination) : (s.terminate e).isOpen = s.isOpen := rfl
@[simp] theorem State.terminate_poll (e : Termination) : (s.terminate e).poll = s.poll := rfl

@[simp] theorem State.raise_cfg (e : FaultEvent) : (s.raise e).cfg = s.cfg := rfl
@[simp] theorem State.raise_env (e : FaultEvent) : (s.raise e).env = s.env := rfl
@[simp] theorem State.raise_pins (e : FaultEvent) : (s.raise e).pins = s.pins := rfl
@[simp] theorem State.raise_ph (e : FaultEvent) : (s.raise e).ph = encode .errPhase := rfl
@[simp] theorem State.raise_fb (e : FaultEvent) : (s.raise e).fb = s.fb := rfl
@[simp] theorem State.raise_cx (e : FaultEvent) : (s.raise e).cx = s.cx := rfl
@[simp] theorem State.raise_ry (e : FaultEvent) : (s.raise e).ry = s.ry := rfl
@[simp] theorem State.raise_sr (e : FaultEvent) : (s.raise e).sr = s.sr := rfl
@[simp] theorem State.raise_bc (e : FaultEvent) : (s.raise e).bc = s.bc := rfl
@[simp] theorem State.raise_bi (e : FaultEvent) : (s.raise e).bi = s.bi := rfl
@[simp] theorem State.raise_rb (e : FaultEvent) : (s.raise e).rb = s.rb := rfl
@[simp] theorem State.raise_smp (e : FaultEvent) : (s.raise e).smp = s.smp := rfl
@[simp] theorem State.raise_ac (e : FaultEvent) : (s.raise e).ac = s.ac := rfl
@[simp] theorem State.raise_ab (e : FaultEvent) : (s.raise e).ab = s.ab := rfl
@[simp] theorem State.raise_oc (e : FaultEvent) : (s.raise e).oc = s.oc := rfl
@[simp] theorem State.raise_dc (e : FaultEvent) : (s.raise e).dc = s.dc := rfl
@[simp] theorem State.raise_rc (e : FaultEvent) : (s.raise e).rc = s.rc := rfl
@[simp] theorem State.raise_status (e : FaultEvent) : (s.raise e).status = s.status.fail e := rfl
@[simp] theorem State.raise_vcur (e : FaultEvent) : (s.raise e).vcur = s.vcur := rfl
@[simp] theorem State.raise_acur (e : FaultEvent) : (s.raise e).acur = s.acur := rfl
@[simp] theorem State.raise_out (e : FaultEvent) : (s.raise e).out = s.out := rfl
@[simp] theorem State.raise_isOpen (e : FaultEvent) : (s.raise e).isOpen = false := rfl
@[simp] theorem State.raise_poll (e : FaultEvent) : (s.raise e).poll = s.poll := rfl

@[simp] theorem State.loadFrame_cfg (b : Bitmap) : (s.loadFrame b).cfg = s.cfg := rfl
@[simp] theorem State.loadFrame_env (b : Bitmap) : (s.loadFrame b).env = s.env := rfl
@[simp] theorem State.loadFrame_pins (b : Bitmap) : (s.loadFrame b).pins = s.pins := rfl
@[simp] theorem State.loadFrame_ph (b : Bitmap) : (s.loadFrame b).ph = s.ph := rfl
@[simp] theorem State.loadFrame_fb (b : Bitmap) : (s.loadFrame b).fb = some b := rfl
@[simp] theorem State.loadFrame_cx (b : Bitmap) : (s.loadFrame b).cx = 0 := rfl
@[simp] theorem State.loadFrame_ry (b : Bitmap) : (s.loadFrame b).ry = 0 := rfl
@[simp] theorem State.loadFrame_sr (b : Bitmap) : (s.loadFrame b).sr = 0 := rfl
@[simp] theorem State.loadFrame_bc (b : Bitmap) : (s.loadFrame b).bc = 0 := rfl
@[simp] theorem State.loadFrame_bi (b : Bitmap) : (s.loadFrame b).bi = 0 := rfl
@[simp] theorem State.loadFrame_rb (b : Bitmap) : (s.loadFrame b).rb = s.rb := rfl
@[simp] theorem State.loadFrame_smp (b : Bitmap) : (s.loadFrame b).smp = s.smp := rfl
@[simp] theorem State.loadFrame_ac (b : Bitmap) : (s.loadFrame b).ac = 0 := rfl
@[simp] theorem State.loadFrame_ab (b : Bitmap) : (s.loadFrame b).ab = s.ab := rfl
@[simp] theorem State.loadFrame_oc (b : Bitmap) : (s.loadFrame b).oc = 0 := rfl
@[simp] theorem State.loadFrame_dc (b : Bitmap) : (s.loadFrame b).dc = 0 := rfl
@[simp] theorem State.loadFrame_rc (b : Bitmap) : (s.loadFrame b).rc = s.rc := rfl
@[simp] theorem State.loadFrame_status (b : Bitmap) : (s.loadFrame b).status = s.status := rfl
@[simp] theorem State.loadFrame_vcur (b : Bitmap) : (s.loadFrame b).vcur = s.vcur := rfl
@[simp] theorem State.loadFrame_acur (b : Bitmap) : (s.loadFrame b).acur = s.acur := rfl
@[simp] theorem State.loadFrame_out (b : Bitmap) : (s.loadFrame b).out = s.out := rfl
@[simp] theorem State.loadFrame_isOpen (b : Bitmap) : (s.loadFrame b).isOpen = s.isOpen := rfl
@[simp] theorem State.loadFrame_poll (b : Bitmap) : (s.loadFrame b).poll = s.poll := rfl

@[simp] theorem State.withFetchWord_cfg (nbits w : Nat) : (s.withFetchWord nbits w).cfg = s.cfg := rfl
@[simp] theorem State.withFetchWord_env (nbits w : Nat) : (s.withFetchWord nbits w).env = s.env := rfl
@[simp] theorem State.withFetchWord_pins (nbits w : Nat) : (s.withFetchWord nbits w).pins = s.pins := rfl
@[simp] theorem State.withFetchWord_ph (nbits w : Nat) : (s.withFetchWord nbits w).ph = BitVec.ofNat 4 (w % 2 ^ nbits) := rfl
@[simp] theorem State.withFetchWord_fb (nbits w : Nat) : (s.withFetchWord nbits w).fb = s.fb := rfl
@[simp] theorem State.withFetchWord_cx (nbits w : Nat) : (s.withFetchWord nbits w).cx = s.cx := rfl
@[simp] theorem State.withFetchWord_ry (nbits w : Nat) : (s.withFetchWord nbits w).ry = s.ry := rfl
@[simp] theorem State.withFetchWord_sr (nbits w : Nat) : (s.withFetchWord nbits w).sr = s.sr := rfl
@[simp] theorem State.withFetchWord_bc (nbits w : Nat) : (s.withFetchWord nbits w).bc = s.bc := rfl
@[simp] theorem State.withFetchWord_bi (nbits w : Nat) : (s.withFetchWord nbits w).bi = s.bi := rfl
@[simp] theorem State.withFetchWord_rb (nbits w : Nat) : (s.withFetchWord nbits w).rb = s.rb := rfl
@[simp] theorem State.withFetchWord_smp (nbits w : Nat) : (s.withFetchWord nbits w).smp = s.smp := rfl
@[simp] theorem State.withFetchWord_ac (nbits w : Nat) : (s.withFetchWord nbits w).ac = s.ac := rfl
@[simp] theorem State.withFetchWord_ab (nbits w : Nat) : (s.withFetchWord nbits w).ab = s.ab := rfl
@[simp] theorem State.withFetchWord_oc (nbits w : Nat) : (s.withFetchWord nbits w).oc = s.oc := rfl
@[simp] theorem State.withFetchWord_dc (nbits w : Nat) : (s.withFetchWord nbits w).dc = s.dc := rfl
@[simp] theorem State.withFetchWord_rc (nbits w : Nat) : (s.withFetchWord nbits w).rc = s.rc := rfl
@[simp] theorem State.withFetchWord_status (nbits w : Nat) : (s.withFetchWord nbits w).status = s.status := rfl
@[simp] theorem State.withFetchWord_vcur (nbits w : Nat) : (s.withFetchWord nbits w).vcur = s.vcur := rfl
@[simp] theorem State.withFetchWord_acur (nbits w : Nat) : (s.withFetchWord nbits w).acur = s.acur := rfl
@[simp] theorem State.withFetchWord_out (nbits w : Nat) : (s.withFetchWord nbits w).out = s.out := rfl
@[simp] theorem State.withFetchWord_isOpen (nbits w : Nat) : (s.withFetchWord nbits w).isOpen = s.isOpen := rfl
@[simp] theorem State.withFetchWord_poll (nbits w : Nat) : (s.withFetchWord nbits w).poll = s.poll := rfl

@[simp] theorem hostDrive_cfg (p : Pins) : (hostDrive s p).cfg = s.cfg := rfl
@[simp] theorem hostDrive_env (p : Pins) : (hostDrive s p).env = s.env := rfl
@[simp] theorem hostDrive_pins (p : Pins) : (hostDrive s p).pins = p := rfl
@[simp] theorem hostDrive_ph (p : Pins) : (hostDrive s p).ph = s.ph := rfl
@[simp] theorem hostDrive_fb (p : Pins) : (hostDrive s p).fb = s.fb := rfl
@[simp] theorem hostDrive_cx (p : Pins) : (hostDrive s p).cx = s.cx := rfl
@[simp] theorem hostDrive_ry (p : Pins) : (hostDrive s p).ry = s.ry := rfl
@[simp] theorem hostDrive_sr (p : Pins) : (hostDrive s p).sr = s.sr := rfl
@[simp] theorem hostDrive_bc (p : Pins) : (hostDrive s p).bc = s.bc := rfl
@[simp] theorem hostDrive_bi (p : Pins) : (hostDrive s p).bi = s.bi := rfl
@[simp] theorem hostDrive_rb (p : Pins) : (hostDrive s p).rb = s.rb := rfl
@[simp] theorem hostDrive_smp (p : Pins) : (hostDrive s p).smp = s.smp := rfl
@[simp] theorem hostDrive_ac (p : Pins) : (hostDrive s p).ac = s.ac := rfl
@[simp] theorem hostDrive_ab (p : Pins) : (hostDrive s p).ab = s.ab := rfl
@[simp] theorem hostDrive_oc (p : Pins) : (hostDrive s p).oc = s.oc := rfl
@[simp] theorem hostDrive_dc (p : Pins) : (hostDrive s p).dc = s.dc := rfl
@[simp] theorem hostDrive_rc (p : Pins) : (hostDrive s p).rc = s.rc := rfl
@[simp] theorem hostDrive_status (p : Pins) : (hostDrive s p).status = s.status := rfl
@[simp] theorem hostDrive_vcur (p : Pins) : (hostDrive s p).vcur = s.vcur := rfl
@[simp] theorem hostDrive_acur (p : Pins) : (hostDrive s p).acur = s.acur := rfl
@[simp] theorem hostDrive_out (p : Pins) : (hostDrive s p).out = s.out := rfl
@[simp] theorem hostDrive_isOpen (p : Pins) : (hostDrive s p).isOpen = s.isOpen := rfl
@[simp] theorem hostDrive_poll (p : Pins) : (hostDrive s p).poll = s.poll := rfl

end Sys2Proof.Machine
end

