-- ==== Sys2Proof/Laws/Ops.lean ====
section
/-! SUPPORT. One lemma for each shared operation that says everything it can do: the two source reads (spec/20_memory.md
R49, R50), the output write (R51), the setup check and the selected operation. -/

namespace Sys2Proof.Machine

/-- What the video source answers (R49). -/
theorem videoAnswer_cases (s : State) :
    (∃ b, s.env.frames[s.vcur]? = some b ∧ videoAnswer s = .frame b) ∨
    (s.env.frames.length ≤ s.vcur ∧ s.env.vend = .eos ∧ videoAnswer s = .eos) ∨
    (s.env.frames.length ≤ s.vcur ∧ s.env.vend = .fail ∧ videoAnswer s = .fail) := by
  unfold videoAnswer
  cases h : s.env.frames[s.vcur]? with
  | some b => exact .inl ⟨b, rfl, rfl⟩
  | none =>
    have hl : s.env.frames.length ≤ s.vcur := List.getElem?_eq_none_iff.1 h
    cases hv : s.env.vend with
    | eos => exact .inr (.inl ⟨hl, rfl, rfl⟩)
    | fail => exact .inr (.inr ⟨hl, rfl, rfl⟩)

/-- Everything `vidNext` can do (R49). -/
theorem vidNext_cases (s : State) :
    (∃ b, s.env.frames[s.vcur]? = some b ∧ vidNext s = (.frame b, { s with vcur := s.vcur + 1 })) ∨
    (s.env.frames.length ≤ s.vcur ∧ s.env.vend = .eos ∧ vidNext s = (.eos, s)) ∨
    (s.env.frames.length ≤ s.vcur ∧ s.env.vend = .fail ∧ vidNext s = (.fail, s)) := by
  obtain ⟨b, h, e⟩ | ⟨h, v, e⟩ | ⟨h, v, e⟩ := videoAnswer_cases s
  · exact .inl ⟨b, h, by simp [vidNext, e]⟩
  · exact .inr (.inl ⟨h, v, by simp [vidNext, e]⟩)
  · exact .inr (.inr ⟨h, v, by simp [vidNext, e]⟩)

/-- What the audio source answers (R50). -/
theorem audioAnswer_cases (s : State) :
    (∃ v, s.env.audio[s.acur]? = some v ∧ audioAnswer s = .byte v) ∨
    (s.env.audio.length ≤ s.acur ∧ s.env.aend = .short ∧ audioAnswer s = .short) ∨
    (s.env.audio.length ≤ s.acur ∧ s.env.aend = .fail ∧ audioAnswer s = .fail) := by
  unfold audioAnswer
  cases h : s.env.audio[s.acur]? with
  | some v => exact .inl ⟨v, rfl, rfl⟩
  | none =>
    have hl : s.env.audio.length ≤ s.acur := List.getElem?_eq_none_iff.1 h
    cases ha : s.env.aend with
    | short => exact .inr (.inl ⟨hl, rfl, rfl⟩)
    | fail => exact .inr (.inr ⟨hl, rfl, rfl⟩)

/-- Everything `audNext` can do (R50). -/
theorem audNext_cases (s : State) :
    (∃ v, s.env.audio[s.acur]? = some v ∧ audNext s = (.byte v, { s with acur := s.acur + 1 })) ∨
    (s.env.audio.length ≤ s.acur ∧ s.env.aend = .short ∧ audNext s = (.short, s)) ∨
    (s.env.audio.length ≤ s.acur ∧ s.env.aend = .fail ∧ audNext s = (.fail, s)) := by
  obtain ⟨v, h, e⟩ | ⟨h, v, e⟩ | ⟨h, v, e⟩ := audioAnswer_cases s
  · exact .inl ⟨v, h, by simp [audNext, e]⟩
  · exact .inr (.inl ⟨h, v, by simp [audNext, e]⟩)
  · exact .inr (.inr ⟨h, v, by simp [audNext, e]⟩)

/-- `outWrite` appends iff the output is open (R51). -/
theorem outWrite_ok_iff (s s' : State) (v : Byte) :
    outWrite s v = .ok s' ↔ s.isOpen = true ∧ s' = { s with out := s.out ++ [v] } := by
  unfold outWrite
  by_cases h : s.isOpen = true
  · rw [if_pos h]
    exact ⟨fun e => ⟨h, (Except.ok.inj e).symm⟩, fun e => congrArg Except.ok e.2.symm⟩
  · simp [h]

/-- A state whose setup conforms is not refused for it (R11, R170). -/
theorem setupRefusal_none_iff (s : State) :
    setupRefusal s = none ↔ s.cfg.valid = true ∧ s.env.conforms s.cfg = true := by
  unfold setupRefusal
  split
  · split <;> simp_all
  · simp_all

end Sys2Proof.Machine
end

