-- ==== Sys2Proof/Laws/PerInstr.lean ====
section
/-! SUPPORT. The family Encoding of LAWS.json: for each operation, its code decodes to it, the code is its row's pattern
in spec/opcode_table.json, and its row is the one the table word selects (spec/30_encoding.md R74, R75). -/

namespace Sys2Proof.Laws.Encoding

/-- An operation is encoded as its row says and decodes to itself. -/
def Statement (i : Instr) : Prop :=
  i.wellFormed = true ∧ decode (encode i) = .ok i ∧ decodeTableWord 8 (encode i).toNat = some i ∧
    ∃ r ∈ opTable, r.instr = i ∧ r.pattern = (encode i).toNat ∧ r.successors = i.successors

theorem idle : Statement .idle := ⟨rfl, rfl, rfl, opTable[0], by decide, by decide⟩
theorem fetch : Statement .fetch := ⟨rfl, rfl, rfl, opTable[1], by decide, by decide⟩
theorem shift : Statement .shift := ⟨rfl, rfl, rfl, opTable[2], by decide, by decide⟩
theorem pad : Statement .pad := ⟨rfl, rfl, rfl, opTable[3], by decide, by decide⟩
theorem stb : Statement .stb := ⟨rfl, rfl, rfl, opTable[4], by decide, by decide⟩
theorem lda : Statement .lda := ⟨rfl, rfl, rfl, opTable[5], by decide, by decide⟩
theorem qnt : Statement .qnt := ⟨rfl, rfl, rfl, opTable[6], by decide, by decide⟩
theorem wrv : Statement .wrv := ⟨rfl, rfl, rfl, opTable[7], by decide, by decide⟩
theorem wra : Statement .wra := ⟨rfl, rfl, rfl, opTable[8], by decide, by decide⟩
theorem nxt : Statement .nxt := ⟨rfl, rfl, rfl, opTable[9], by decide, by decide⟩
theorem hlt : Statement .hlt := ⟨rfl, rfl, rfl, opTable[10], by decide, by decide⟩
theorem endPhase : Statement .endPhase := ⟨rfl, rfl, rfl, opTable[11], by decide, by decide⟩
theorem errPhase : Statement .errPhase := ⟨rfl, rfl, rfl, opTable[12], by decide, by decide⟩

end Sys2Proof.Laws.Encoding
end

