-- ==== Sys2Proof/Laws/Step.lean ====
section
/-! SUPPORT. Once for each operation, everything it can do when it answers a next state (spec/40_packer.md R93 to R95,
spec/41_audio_quantizer.md R101, R102, spec/42_multiplexer.md R107 to R114), and once for the step. -/

namespace Sys2Proof.Machine

variable {s t : State}

theorem execIdle_next (h : execIdle s = .next t) :
    (s.pins.start = true ∧ t = { s with status := s.status.begin, isOpen := true }.goto .fetch) ∨
    (s.pins.start = false ∧ t = s.goto .idle) := by
  unfold execIdle at h
  by_cases hs : s.pins.start = true
  · rw [if_pos hs] at h; cases h; exact .inl ⟨hs, rfl⟩
  · rw [if_neg hs] at h; cases h; exact .inr ⟨by simpa using hs, rfl⟩

/-- FETCH always answers a next state: cancelled, a frame, the end of the video, or the fault. -/
theorem execFetch_cases (s : State) :
    (cancelAt s.env s.poll = true ∧
      execFetch s = .next ({ s with poll := s.poll + 1 }.terminate .cancelled)) ∨
    (cancelAt s.env s.poll = false ∧ ∃ b, s.env.frames[s.vcur]? = some b ∧
      execFetch s = .next (({ s with poll := s.poll + 1, vcur := s.vcur + 1 }.loadFrame b).goto .shift)) ∨
    (cancelAt s.env s.poll = false ∧ s.env.frames.length ≤ s.vcur ∧ s.env.vend = .eos ∧
      execFetch s = .next ({ s with poll := s.poll + 1 }.terminate .videoExhausted)) ∨
    (cancelAt s.env s.poll = false ∧ s.env.frames.length ≤ s.vcur ∧ s.env.vend = .fail ∧
      execFetch s = .next ({ s with poll := s.poll + 1 }.raise .videoDecodeFailure)) := by
  cases hc : cancelAt s.env s.poll with
  | true => exact .inl ⟨rfl, by simp [execFetch, cancelPoll, hc]⟩
  | false =>
    obtain ⟨b, hb, e⟩ | ⟨hl, hv, e⟩ | ⟨hl, hv, e⟩ := vidNext_cases { s with poll := s.poll + 1 }
    · exact .inr (.inl ⟨rfl, b, hb, by simp [execFetch, cancelPoll, hc, e]⟩)
    · exact .inr (.inr (.inl ⟨rfl, hl, hv, by simp [execFetch, cancelPoll, hc, e]⟩))
    · exact .inr (.inr (.inr ⟨rfl, hl, hv, by simp [execFetch, cancelPoll, hc, e]⟩))

theorem execShift_next (h : execShift s = .next t) :
    ∃ p, pixelOperand s.cfg s.fb s.ry s.cx = .ok p ∧
      t = { s with sr := shiftIn s.sr p, bc := s.bc + 1, cx := (advancePixel s.cfg s.cx s.ry).1,
                   ry := (advancePixel s.cfg s.cx s.ry).2 }.goto
            (if s.bc + 1 = 8 then .stb
             else if (advancePixel s.cfg s.cx s.ry).1 = s.cfg.w then .pad else .shift) := by
  unfold execShift at h
  cases hp : pixelOperand s.cfg s.fb s.ry s.cx with
  | error f => simp [hp] at h
  | ok p => rw [hp] at h; cases h; exact ⟨p, rfl, rfl⟩

theorem execPad_eq (s : State) : execPad s =
    .next ({ s with sr := shiftIn s.sr false, bc := s.bc + 1 }.goto (if s.bc + 1 = 8 then .stb else .pad)) := rfl

theorem execStb_next (h : execStb s = .next t) :
    s.bi < videoSize s.cfg ∧
      t = { s with rb := Memory.write s.rb s.bi s.sr, bi := s.bi + 1, sr := 0, bc := 0 }.goto
            (if s.cx = s.cfg.w then (if chunkLen s.cfg = 0 then .wrv else .lda) else .shift) := by
  unfold execStb at h
  cases hw : writeCell .rb (videoSize s.cfg) s.rb s.bi s.sr with
  | error f => simp [hw] at h
  | ok m =>
    obtain ⟨hlt, rfl⟩ := (writeCell_ok_iff _ _ _ _ _ _).1 hw
    rw [hw] at h; cases h; exact ⟨hlt, rfl⟩

/-- LDA always answers a next state: a sample, the short read, or the fault. -/
theorem execLda_cases (s : State) :
    (∃ v, s.env.audio[s.acur]? = some v ∧
      execLda s = .next ({ s with acur := s.acur + 1, smp := v }.goto .qnt)) ∨
    (s.env.audio.length ≤ s.acur ∧ s.env.aend = .short ∧
      execLda s = .next ({ s with ac := 0 }.terminate .audioExhausted)) ∨
    (s.env.audio.length ≤ s.acur ∧ s.env.aend = .fail ∧
      execLda s = .next (s.raise .audioDecodeFailure)) := by
  obtain ⟨v, hv, e⟩ | ⟨hl, ha, e⟩ | ⟨hl, ha, e⟩ := audNext_cases s
  · exact .inl ⟨v, hv, by simp [execLda, e]⟩
  · exact .inr (.inl ⟨hl, ha, by simp [execLda, e]⟩)
  · exact .inr (.inr ⟨hl, ha, by simp [execLda, e]⟩)

theorem execQnt_next (h : execQnt s = .next t) :
    s.ac < chunkLen s.cfg ∧
      t = { s with ab := Memory.write s.ab s.ac (quant s.cfg s.smp), ac := s.ac + 1 }.goto
            (if s.ac + 1 = chunkLen s.cfg then .wrv else .lda) := by
  unfold execQnt at h
  cases hw : writeCell .ab (chunkLen s.cfg) s.ab s.ac (quant s.cfg s.smp) with
  | error f => simp [hw] at h
  | ok m =>
    obtain ⟨hlt, rfl⟩ := (writeCell_ok_iff _ _ _ _ _ _).1 hw
    rw [hw] at h; cases h; exact ⟨hlt, rfl⟩

theorem execWrv_next (h : execWrv s = .next t) :
    ∃ v, s.oc < videoSize s.cfg ∧ Memory.read s.rb s.oc = some v ∧ s.isOpen = true ∧
      ((s.oc + 1 = videoSize s.cfg ∧
          t = { s with out := s.out ++ [v], oc := 0 }.goto (if chunkLen s.cfg = 0 then .nxt else .wra)) ∨
        (s.oc + 1 ≠ videoSize s.cfg ∧ t = { s with out := s.out ++ [v], oc := s.oc + 1 }.goto .wrv)) := by
  unfold execWrv at h
  cases hr : readCell .rb (videoSize s.cfg) s.rb s.oc with
  | error f => simp [hr] at h
  | ok v =>
    obtain ⟨hlt, hv⟩ := (readCell_ok_iff _ _ _ _ _).1 hr
    cases hw : outWrite s v with
    | error f => simp [hr, hw] at h
    | ok s' =>
      obtain ⟨ho, rfl⟩ := (outWrite_ok_iff _ _ _).1 hw
      simp only [hr, hw] at h
      refine ⟨v, hlt, hv, ho, ?_⟩
      by_cases he : s.oc + 1 = videoSize s.cfg
      · rw [if_pos he] at h; cases h; exact .inl ⟨he, rfl⟩
      · rw [if_neg he] at h; cases h; exact .inr ⟨he, rfl⟩

theorem execWra_next (h : execWra s = .next t) :
    ∃ v, s.oc < chunkLen s.cfg ∧ Memory.read s.ab s.oc = some v ∧ s.isOpen = true ∧
      ((s.oc + 1 = chunkLen s.cfg ∧ t = { s with out := s.out ++ [v], oc := 0 }.goto .nxt) ∨
        (s.oc + 1 ≠ chunkLen s.cfg ∧ t = { s with out := s.out ++ [v], oc := s.oc + 1 }.goto .wra)) := by
  unfold execWra at h
  cases hr : readCell .ab (chunkLen s.cfg) s.ab s.oc with
  | error f => simp [hr] at h
  | ok v =>
    obtain ⟨hlt, hv⟩ := (readCell_ok_iff _ _ _ _ _).1 hr
    cases hw : outWrite s v with
    | error f => simp [hr, hw] at h
    | ok s' =>
      obtain ⟨ho, rfl⟩ := (outWrite_ok_iff _ _ _).1 hw
      simp only [hr, hw] at h
      refine ⟨v, hlt, hv, ho, ?_⟩
      by_cases he : s.oc + 1 = chunkLen s.cfg
      · rw [if_pos he] at h; cases h; exact .inl ⟨he, rfl⟩
      · rw [if_neg he] at h; cases h; exact .inr ⟨he, rfl⟩

/-- NXT always answers a next state: the next frame, or the same record again. -/
theorem execNxt_cases (s : State) :
    (s.dc + 1 = s.cfg.dup ∧ execNxt s = .next ({ s with rc := s.rc + 1, ac := 0, dc := 0 }.goto .fetch)) ∨
    (s.dc + 1 ≠ s.cfg.dup ∧ execNxt s = .next ({ s with rc := s.rc + 1, ac := 0, dc := s.dc + 1 }.goto
      (if chunkLen s.cfg = 0 then .wrv else .lda))) := by
  unfold execNxt
  by_cases h : s.dc + 1 = s.cfg.dup
  · exact .inl ⟨h, by simp [h]⟩
  · exact .inr ⟨h, by simp [h]⟩

theorem execHlt_eq (s : State) :
    execHlt s = .next ({ s with isOpen := false, status := s.status.finish }.goto .endPhase) := rfl

/-- Everything a step can do when it answers a next state: the setup conforms, and either reset was asserted or the
operation PH names was executed. -/
theorem step_next (h : step s = .next t) :
    s.cfg.valid = true ∧ s.env.conforms s.cfg = true ∧ ∃ i, s.ph = encode i ∧
      ((s.pins.reset = true ∧ t = s.resetNow) ∨ (s.pins.reset = false ∧ exec i s = .next t)) := by
  unfold step at h
  cases hr : setupRefusal s with
  | some r => simp [hr] at h
  | none =>
    obtain ⟨hv, hc⟩ := (setupRefusal_none_iff s).1 hr
    cases hd : decode s.ph with
    | error e => simp [hr, selected, hd] at h
    | ok i =>
      have hph := (decode_ok_iff _ _).1 hd
      refine ⟨hv, hc, i, hph, ?_⟩
      simp only [hr, selected, hd] at h
      by_cases hp : s.pins.reset = true
      · rw [if_pos hp] at h; cases h; exact .inl ⟨hp, rfl⟩
      · rw [if_neg hp] at h; exact .inr ⟨by simpa using hp, h⟩

/-- The step of a state whose setup conforms and whose PH names an operation. -/
theorem step_of (i : Instr) (hv : s.cfg.valid = true) (hc : s.env.conforms s.cfg = true) (hph : s.ph = encode i) :
    step s = if s.pins.reset = true then .next s.resetNow else exec i s := by
  simp [step, (setupRefusal_none_iff s).2 ⟨hv, hc⟩, selected, hph]

/-- Runs compose. -/
theorem runFor_add (m n : Nat) (h : runFor m s = .next t) : runFor (m + n) s = runFor n t := by
  induction m generalizing s with
  | zero =>
    simp only [runFor, Host.Outcome.next.injEq] at h
    rw [h, Nat.zero_add]
  | succ m ih =>
    rw [Nat.add_right_comm]
    simp only [runFor] at h ⊢
    cases hs : step s with
    | next u => rw [hs] at h; simpa using ih h
    | fault f => simp [hs] at h
    | refused r => simp [hs] at h

end Sys2Proof.Machine
end

