-- ==== Sys2Proof/Tests/Slice0.lean ====
section
/-! SUPPORT. The model's own tests. Expected values are those of spec/95_test_vectors.md (S1 to S10, V1 to V50, P1 to P6),
named at each test, or of the operation rules' examples. Then the witnesses: for every statement with hypotheses, a
concrete state and operands that meet them all. -/

namespace Sys2Proof.Tests

open Sys2Proof.Machine

/-! ### Helpers -/

/-- A configuration with N = `n` samples to a record. -/
def cfg (w h n shift dup : Nat) : Cfg := { w := w, h := h, sampleRate := n, frameRate := 1, shift := shift, dup := dup }

/-- A bitmap written as the spec's vectors write it: rows of 0 and 1. -/
def bitmap (rows : List (List Nat)) : Bitmap := rows.map fun r => r.map fun p => p == 1

/-- Sources with a cancel input that stays 0 for the first four polls. -/
def env (frames : List Bitmap) (audio : List Byte) (vend : VideoEnd) (aend : AudioEnd) : Env :=
  { frames := frames, vend := vend, audio := audio, aend := aend, cancel := [false, false, false, false] }

/-- The reset state of a configuration and an environment with both inputs 0 and PH at an operation. -/
def at_ (c : Cfg) (e : Env) (i : Instr) : State :=
  { State.resetWith c e { reset := false, start := false } with ph := encode i }

/-- An environment with nothing in it. -/
def noEnv : Env := env [] [] .eos .short

/-- STATUS of a running block. -/
def busy : Status := { busy := true, done := false, errf := false, cause := .none }

/-- The state an outcome leads to, read through `f`. -/
def after (o : Host.Outcome State Fault Refusal) (f : State → Bool) : Bool :=
  match o with
  | .next t => f t
  | .fault _ => false
  | .refused _ => false

/-! ### WellFormed: an ill-formed term for each check (R5, R11, R170) -/

theorem test_valid : (cfg 8 8 2 2 1).valid = true := by decide
theorem test_invalid_width_zero : Cfg.valid { w := 0, h := 8, sampleRate := 2, frameRate := 1, shift := 2, dup := 1 } = false := by decide
theorem test_invalid_height_zero : Cfg.valid { w := 8, h := 0, sampleRate := 2, frameRate := 1, shift := 2, dup := 1 } = false := by decide
theorem test_invalid_sample_rate_zero : Cfg.valid { w := 8, h := 8, sampleRate := 0, frameRate := 1, shift := 2, dup := 1 } = false := by decide
theorem test_invalid_frame_rate_zero : Cfg.valid { w := 8, h := 8, sampleRate := 2, frameRate := 0, shift := 2, dup := 1 } = false := by decide
theorem test_invalid_shift_eight : Cfg.valid { w := 8, h := 8, sampleRate := 2, frameRate := 1, shift := 8, dup := 1 } = false := by decide
theorem test_invalid_dup_zero : Cfg.valid { w := 8, h := 8, sampleRate := 2, frameRate := 1, shift := 2, dup := 0 } = false := by decide
theorem test_invalid_dup_three : Cfg.valid { w := 8, h := 8, sampleRate := 2, frameRate := 1, shift := 2, dup := 3 } = false := by decide
theorem test_bitmap_fits : Bitmap.fits (cfg 3 2 1 0 1) (bitmap [[1, 0, 1], [0, 0, 1]]) = true := by decide
theorem test_bitmap_missing_row : Bitmap.fits (cfg 3 2 1 0 1) (bitmap [[1, 0, 1]]) = false := by decide
theorem test_bitmap_short_row : Bitmap.fits (cfg 3 2 1 0 1) (bitmap [[1, 0, 1], [0, 0]]) = false := by decide
theorem test_source_with_a_bad_frame : Env.conforms (cfg 1 1 1 0 1) (env [[[true]], [[true, false]]] [] .eos .short) = false := by decide
theorem test_every_operation_well_formed : Instr.all.all Instr.wellFormed = true := by decide

/-! ### Decode: every code written out bit by bit (R75, R76) -/

theorem test_decode_idle : decode 0b0000#4 = .ok .idle := by decide
theorem test_decode_fetch : decode 0b0001#4 = .ok .fetch := by decide
theorem test_decode_shift : decode 0b0010#4 = .ok .shift := by decide
theorem test_decode_pad : decode 0b0011#4 = .ok .pad := by decide
theorem test_decode_stb : decode 0b0100#4 = .ok .stb := by decide
theorem test_decode_lda : decode 0b0101#4 = .ok .lda := by decide
theorem test_decode_qnt : decode 0b0110#4 = .ok .qnt := by decide
theorem test_decode_wrv : decode 0b0111#4 = .ok .wrv := by decide
theorem test_decode_wra : decode 0b1000#4 = .ok .wra := by decide
theorem test_decode_nxt : decode 0b1001#4 = .ok .nxt := by decide
theorem test_decode_hlt : decode 0b1010#4 = .ok .hlt := by decide
theorem test_decode_endPhase : decode 0b1011#4 = .ok .endPhase := by decide
theorem test_decode_errPhase : decode 0b1100#4 = .ok .errPhase := by decide
theorem test_decode_reserved : decode 0b1101#4 = .error (.reservedPhase 13) ∧ decode 0b1110#4 = .error (.reservedPhase 14) ∧
    decode 0b1111#4 = .error (.reservedPhase 15) := by decide
theorem test_table_words : (List.range 13).map (decodeTableWord 8) = Instr.all.map some := by decide
theorem test_table_word_reserved : (List.range 4).map (fun q => decodeTableWord 8 (13 + q)) = [none, none, none, none] := by decide
theorem test_answer_kind_reserved : videoAnswerOf 0b11#2 [] = .error .reservedKind ∧ audioAnswerOf 0b11#2 0 = .error .reservedKind := ⟨rfl, rfl⟩

/-! ### Bit Packer, functions: V1 to V14, S3 to S5 -/

theorem test_pack_V1 :
    pack (cfg 8 8 2 2 1) (bitmap [[1, 0, 0, 0, 0, 0, 0, 0], [1, 0, 0, 0, 0, 0, 0, 0], [1, 0, 0, 0, 0, 0, 0, 0], [1, 0, 0, 0, 0, 0, 0, 0], [1, 0, 0, 0, 0, 0, 0, 0], [1, 0, 0, 0, 0, 0, 0, 0], [1, 0, 0, 0, 0, 0, 0, 0], [1, 0, 0, 0, 0, 0, 0, 0]])
      = [0xFF, 0x00, 0x00, 0x00, 0x00, 0x00, 0x00, 0x00] := by decide
theorem test_pack_V2 :
    pack (cfg 8 8 2 2 1) (bitmap [[1, 1, 1, 1, 1, 1, 1, 1], [0, 0, 0, 0, 0, 0, 0, 0], [0, 0, 0, 0, 0, 0, 0, 0], [0, 0, 0, 0, 0, 0, 0, 0], [0, 0, 0, 0, 0, 0, 0, 0], [0, 0, 0, 0, 0, 0, 0, 0], [0, 0, 0, 0, 0, 0, 0, 0], [0, 0, 0, 0, 0, 0, 0, 0]])
      = [0x80, 0x80, 0x80, 0x80, 0x80, 0x80, 0x80, 0x80] := by decide
theorem test_pack_V3 :
    pack (cfg 8 8 2 2 1) (bitmap [[0, 1, 0, 0, 0, 0, 0, 0], [0, 0, 0, 0, 0, 0, 0, 0], [0, 0, 0, 0, 0, 0, 0, 0], [0, 0, 0, 0, 0, 0, 0, 0], [0, 0, 0, 0, 0, 0, 0, 0], [0, 0, 0, 0, 0, 0, 0, 0], [0, 0, 0, 0, 0, 0, 0, 0], [0, 0, 0, 0, 0, 0, 0, 0]])
      = [0x00, 0x80, 0x00, 0x00, 0x00, 0x00, 0x00, 0x00] := by decide
theorem test_pack_V4 :
    pack (cfg 8 8 2 2 1) (bitmap [[0, 0, 0, 0, 0, 0, 0, 0], [1, 0, 0, 0, 0, 0, 0, 0], [0, 0, 0, 0, 0, 0, 0, 0], [0, 0, 0, 0, 0, 0, 0, 0], [0, 0, 0, 0, 0, 0, 0, 0], [0, 0, 0, 0, 0, 0, 0, 0], [0, 0, 0, 0, 0, 0, 0, 0], [0, 0, 0, 0, 0, 0, 0, 0]])
      = [0x40, 0x00, 0x00, 0x00, 0x00, 0x00, 0x00, 0x00] := by decide
theorem test_pack_V5 :
    pack (cfg 8 8 2 2 1) (bitmap [[0, 0, 0, 0, 0, 0, 0, 0], [0, 0, 0, 0, 0, 0, 0, 0], [0, 0, 0, 0, 0, 0, 0, 0], [0, 0, 0, 0, 0, 0, 0, 0], [0, 0, 0, 0, 0, 0, 0, 0], [0, 0, 0, 0, 0, 0, 0, 0], [0, 0, 0, 0, 0, 0, 0, 0], [0, 0, 0, 0, 0, 0, 0, 1]])
      = [0x00, 0x00, 0x00, 0x00, 0x00, 0x00, 0x00, 0x01] := by decide
theorem test_pack_V6 :
    pack (cfg 2 4 2 2 1) (bitmap [[0, 1], [0, 0], [0, 0], [0, 0]])
      = [0x08] := by decide
theorem test_pack_V7 :
    pack (cfg 3 3 2 2 1) (bitmap [[1, 1, 1], [1, 1, 1], [1, 1, 1]])
      = [0xFF, 0x80] := by decide
theorem test_pack_V8 :
    pack (cfg 1 1 2 2 1) (bitmap [[1]])
      = [0x80] := by decide
theorem test_pack_V9 :
    pack (cfg 1 1 2 2 1) (bitmap [[0]])
      = [0x00] := by decide
theorem test_pack_V10 :
    pack (cfg 5 2 2 2 1) (bitmap [[1, 0, 1, 0, 1], [0, 1, 1, 0, 1]])
      = [0x9C, 0xC0] := by decide
theorem test_pack_V11 :
    pack (cfg 16 1 2 2 1) (bitmap [[1, 1, 0, 0, 1, 0, 1, 0, 0, 0, 0, 0, 1, 1, 1, 1]])
      = [0xCA, 0x0F] := by decide
theorem test_pack_V12 :
    pack (cfg 1 16 2 2 1) (bitmap [[1], [1], [0], [0], [1], [0], [1], [0], [0], [0], [0], [0], [1], [1], [1], [1]])
      = [0xCA, 0x0F] := by decide
theorem test_pack_V13 :
    pack (cfg 4 3 2 2 1) (bitmap [[1, 0, 1, 1], [0, 0, 1, 0], [1, 1, 1, 0]])
      = [0xA7, 0xC0] := by decide
theorem test_pack_V14 :
    pack (cfg 2 4 2 2 1) (bitmap [[0, 1], [1, 0], [1, 1], [0, 0]])
      = [0x6A] := by decide
theorem test_pack_S3_white :
    pack (cfg 8 8 2 2 1) (bitmap [[1, 1, 1, 1, 1, 1, 1, 1], [1, 1, 1, 1, 1, 1, 1, 1], [1, 1, 1, 1, 1, 1, 1, 1], [1, 1, 1, 1, 1, 1, 1, 1], [1, 1, 1, 1, 1, 1, 1, 1], [1, 1, 1, 1, 1, 1, 1, 1], [1, 1, 1, 1, 1, 1, 1, 1], [1, 1, 1, 1, 1, 1, 1, 1]])
      = [0xFF, 0xFF, 0xFF, 0xFF, 0xFF, 0xFF, 0xFF, 0xFF] := by decide
theorem test_pack_S4_black :
    pack (cfg 8 8 2 2 1) (bitmap [[0, 0, 0, 0, 0, 0, 0, 0], [0, 0, 0, 0, 0, 0, 0, 0], [0, 0, 0, 0, 0, 0, 0, 0], [0, 0, 0, 0, 0, 0, 0, 0], [0, 0, 0, 0, 0, 0, 0, 0], [0, 0, 0, 0, 0, 0, 0, 0], [0, 0, 0, 0, 0, 0, 0, 0], [0, 0, 0, 0, 0, 0, 0, 0]])
      = [0x00, 0x00, 0x00, 0x00, 0x00, 0x00, 0x00, 0x00] := by decide
theorem test_pack_S5_checkerboard :
    pack (cfg 8 8 2 2 1) (bitmap [[0, 1, 0, 1, 0, 1, 0, 1], [1, 0, 1, 0, 1, 0, 1, 0], [0, 1, 0, 1, 0, 1, 0, 1], [1, 0, 1, 0, 1, 0, 1, 0], [0, 1, 0, 1, 0, 1, 0, 1], [1, 0, 1, 0, 1, 0, 1, 0], [0, 1, 0, 1, 0, 1, 0, 1], [1, 0, 1, 0, 1, 0, 1, 0]])
      = [0x55, 0xAA, 0x55, 0xAA, 0x55, 0xAA, 0x55, 0xAA] := by decide
theorem test_pack_S5_complement :
    pack (cfg 8 8 2 2 1) (bitmap [[1, 0, 1, 0, 1, 0, 1, 0], [0, 1, 0, 1, 0, 1, 0, 1], [1, 0, 1, 0, 1, 0, 1, 0], [0, 1, 0, 1, 0, 1, 0, 1], [1, 0, 1, 0, 1, 0, 1, 0], [0, 1, 0, 1, 0, 1, 0, 1], [1, 0, 1, 0, 1, 0, 1, 0], [0, 1, 0, 1, 0, 1, 0, 1]])
      = [0xAA, 0x55, 0xAA, 0x55, 0xAA, 0x55, 0xAA, 0x55] := by decide

/-! ### Audio Quantizer, function: the table of section 3, S1, S2 -/

theorem test_quant_shift_0 :
    [0x00, 0x01, 0x03, 0x04, 0x7F, 0x80, 0xAB, 0xFC, 0xFF].map (quant (cfg 1 1 1 0 1))
      = [0x00, 0x01, 0x03, 0x04, 0x7F, 0x80, 0xAB, 0xFC, 0xFF] := by decide
theorem test_quant_shift_1 :
    [0x00, 0x01, 0x03, 0x04, 0x7F, 0x80, 0xAB, 0xFC, 0xFF].map (quant (cfg 1 1 1 1 1))
      = [0x00, 0x00, 0x01, 0x02, 0x3F, 0x40, 0x55, 0x7E, 0x7F] := by decide
theorem test_quant_shift_2 :
    [0x00, 0x01, 0x03, 0x04, 0x7F, 0x80, 0xAB, 0xFC, 0xFF].map (quant (cfg 1 1 1 2 1))
      = [0x00, 0x00, 0x00, 0x01, 0x1F, 0x20, 0x2A, 0x3F, 0x3F] := by decide
theorem test_quant_shift_3 :
    [0x00, 0x01, 0x03, 0x04, 0x7F, 0x80, 0xAB, 0xFC, 0xFF].map (quant (cfg 1 1 1 3 1))
      = [0x00, 0x00, 0x00, 0x00, 0x0F, 0x10, 0x15, 0x1F, 0x1F] := by decide
theorem test_quant_shift_7 :
    [0x00, 0x01, 0x03, 0x04, 0x7F, 0x80, 0xAB, 0xFC, 0xFF].map (quant (cfg 1 1 1 7 1))
      = [0x00, 0x00, 0x00, 0x00, 0x00, 0x01, 0x01, 0x01, 0x01] := by decide
theorem test_quant_S2 : quant (cfg 1 1 1 2 1) (quant (cfg 1 1 1 2 1) 0xFF) = 0x0F := by decide

/-! ### Single operations: V15 to V40, one step each -/

/-- V15: FB[2][0] = 1. -/
theorem test_shift_V15 : after (exec .shift ({ at_ (cfg 2 4 2 2 1) noEnv .shift with sr := 0x05, bc := 3, cx := 0, ry := 2, fb := some (bitmap [[0, 0], [0, 0], [1, 0], [1, 0]]) })) (fun t =>
    t.sr == 0x0B && t.bc == 4 && t.ry == 3 && t.cx == 0 && t.ph == encode .shift) = true := by decide
/-- V16: the column carry. -/
theorem test_shift_V16 : after (exec .shift ({ at_ (cfg 2 4 2 2 1) noEnv .shift with sr := 0x06, bc := 4, cx := 0, ry := 3, fb := some (bitmap [[0, 0], [0, 0], [1, 0], [1, 0]]) })) (fun t =>
    t.sr == 0x0D && t.bc == 5 && t.ry == 0 && t.cx == 1 && t.ph == encode .shift) = true := by decide
/-- V17: the byte being full wins over the frame being used up. -/
theorem test_shift_V17 : after (exec .shift ({ at_ (cfg 2 4 2 2 1) noEnv .shift with sr := 0x35, bc := 7, cx := 1, ry := 3, fb := some (bitmap [[0, 0], [0, 0], [1, 0], [1, 0]]) })) (fun t =>
    t.sr == 0x6A && t.bc == 8 && t.ry == 0 && t.cx == 2 && t.ph == encode .stb) = true := by decide
/-- V18: the frame ends inside a byte. -/
theorem test_shift_V18 : after (exec .shift ({ at_ (cfg 3 3 2 2 1) noEnv .shift with sr := 0, bc := 0, cx := 2, ry := 2, fb := some (bitmap [[0, 0, 0], [0, 0, 0], [0, 0, 1]]) })) (fun t =>
    t.sr == 0x01 && t.bc == 1 && t.ry == 0 && t.cx == 3 && t.ph == encode .pad) = true := by decide
/-- V19. -/
theorem test_pad_V19 : after (exec .pad ({ at_ (cfg 2 4 2 2 1) noEnv .pad with sr := 0x01, bc := 1 })) (fun t =>
    t.sr == 0x02 && t.bc == 2 && t.ph == encode .pad) = true := by decide
/-- V20: the last. -/
theorem test_pad_V20 : after (exec .pad ({ at_ (cfg 2 4 2 2 1) noEnv .pad with sr := 0x40, bc := 7 })) (fun t =>
    t.sr == 0x80 && t.bc == 8 && t.ph == encode .stb) = true := by decide
/-- V21: more pixels. -/
theorem test_stb_V21 : after (exec .stb ({ at_ (cfg 3 3 2 2 1) noEnv .stb with sr := 0xFF, bc := 8, bi := 0, cx := 2 })) (fun t =>
    Memory.read t.rb 0 == some 0xFF && t.bi == 1 && t.sr == 0 && t.bc == 0 && t.ph == encode .shift) = true := by decide
/-- V22: the record complete, N > 0. -/
theorem test_stb_V22 : after (exec .stb ({ at_ (cfg 3 3 2 2 1) noEnv .stb with sr := 0x80, bc := 8, bi := 1, cx := 3 })) (fun t =>
    Memory.read t.rb 1 == some 0x80 && t.bi == 2 && t.sr == 0 && t.bc == 0 && t.ph == encode .lda) = true := by decide
/-- V23: the record complete, N = 0. -/
theorem test_stb_V23 : after (exec .stb ({ at_ { cfg 1 1 1 2 1 with frameRate := 2 } noEnv .stb with sr := 0x80, bc := 8, cx := 1 }))
    (fun t => Memory.read t.rb 0 == some 0x80 && t.bi == 1 && t.ph == encode .wrv) = true := by decide
/-- V24: BYTE. -/
theorem test_lda_V24 : after (exec .lda (at_ (cfg 2 4 2 2 1) (env [] [0xFF] .eos .short) .lda)) (fun t =>
    t.smp == 0xFF && t.acur == 1 && t.ph == encode .qnt) = true := by decide
/-- V25: SHORT in the middle of a chunk. -/
theorem test_lda_V25 : after (exec .lda ({ at_ (cfg 2 4 2 2 1) noEnv .lda with ac := 1, status := busy, out := [1] })) (fun t =>
    t.status.cause == .aend && t.ac == 0 && t.out == [1] && t.ph == encode .hlt) = true := by decide
/-- V26: FAIL. -/
theorem test_lda_V26 : after (exec .lda ({ at_ (cfg 2 4 2 2 1) (env [] [] .eos .fail) .lda with status := busy, isOpen := true })) (fun t =>
    hostStatus t == 0x54 && t.isOpen == false && t.ph == encode .errPhase) = true := by decide
/-- V27. -/
theorem test_qnt_V27 : after (exec .qnt ({ at_ (cfg 2 4 2 2 1) noEnv .qnt with smp := 0xFF, ac := 0 })) (fun t =>
    Memory.read t.ab 0 == some 0x3F && t.ac == 1 && t.smp == 0xFF && t.ph == encode .lda) = true := by decide
/-- V28: the chunk complete. -/
theorem test_qnt_V28 : after (exec .qnt ({ at_ (cfg 2 4 2 2 1) noEnv .qnt with smp := 0x80, ac := 1 })) (fun t =>
    Memory.read t.ab 1 == some 0x20 && t.ac == 2 && t.ph == encode .wrv) = true := by decide
/-- V29: the last byte, N > 0. -/
theorem test_wrv_V29 : after (exec .wrv ({ at_ (cfg 3 3 2 2 1) noEnv .wrv with rb := [(0, 0xFF), (1, 0x80)], oc := 1, isOpen := true })) (fun t =>
    t.out == [0x80] && t.oc == 0 && t.ph == encode .wra) = true := by decide
/-- V30: the last byte, N = 0. -/
theorem test_wrv_V30 : after (exec .wrv ({ at_ { cfg 1 1 1 2 1 with frameRate := 2 } noEnv .wrv with rb := [(0, 0x80)], isOpen := true }))
    (fun t => t.out == [0x80] && t.oc == 0 && t.ph == encode .nxt) = true := by decide
/-- V31: the last byte. -/
theorem test_wra_V31 : after (exec .wra ({ at_ (cfg 2 4 2 2 1) noEnv .wra with ab := [(0, 0x10), (1, 0x10)], oc := 1, isOpen := true })) (fun t =>
    t.out == [0x10] && t.oc == 0 && t.ph == encode .nxt) = true := by decide
/-- R110's example. -/
theorem test_wra_R110 : after (exec .wra ({ at_ (cfg 2 4 2 2 1) noEnv .wra with ab := [(0, 0x3F), (1, 0x00)], oc := 0, isOpen := true })) (fun t =>
    t.out == [0x3F] && t.oc == 1 && t.ph == encode .wra) = true := by decide
/-- V32 and V34: DUP = 1, and the second record under DUP = 2. -/
theorem test_nxt_V32 : after (exec .nxt ({ at_ (cfg 2 4 1 2 2) noEnv .nxt with rc := 1, dc := 1, ac := 1 })) (fun t =>
    t.rc == 2 && t.ac == 0 && t.dc == 0 && t.ph == encode .fetch) = true := by decide
/-- V33 and V35: the first record under DUP = 2, and the wrap of RC. -/
theorem test_nxt_V35 : after (exec .nxt ({ at_ (cfg 2 4 1 2 2) noEnv .nxt with rc := 0xFFFFFFFF, dc := 0, ac := 1 })) (fun t =>
    t.rc == 0 && t.ac == 0 && t.dc == 1 && t.ph == encode .lda) = true := by decide
/-- V36: cancel and EOS together: the source is not asked. -/
theorem test_fetch_V36 : after (exec .fetch (at_ (cfg 2 4 2 2 1) { noEnv with cancel := [true] } .fetch)) (fun t =>
    t.status.cause == .canc && t.vcur == 0 && t.poll == 1 && t.ph == encode .hlt) = true := by decide
/-- V38: FAIL. -/
theorem test_fetch_V38 : after (exec .fetch ({ at_ (cfg 2 4 2 2 1) (env [] [] .fail .short) .fetch with status := busy, isOpen := true })) (fun t =>
    hostStatus t == 0x44 && t.isOpen == false && t.poll == 1 && t.ph == encode .errPhase) = true := by decide
/-- V39. -/
theorem test_hlt_V39 : after (exec .hlt ({ at_ (cfg 2 4 2 2 1) noEnv .hlt with status := { busy with cause := .aend }, isOpen := true })) (fun t =>
    hostStatus t == 0x22 && t.isOpen == false && t.ph == encode .endPhase) = true := by decide
/-- R112's example. -/
theorem test_hlt_R112 : after (exec .hlt ({ at_ (cfg 2 4 2 2 1) noEnv .hlt with status := { busy with cause := .vend }, isOpen := true })) (fun t =>
    hostStatus t == 0x12 && t.isOpen == false && t.ph == encode .endPhase) = true := by decide
/-- V40: start = 0 changes nothing. -/
theorem test_idle_waits : exec .idle (at_ (cfg 2 4 2 2 1) noEnv .idle) = .next (at_ (cfg 2 4 2 2 1) noEnv .idle) := rfl
/-- V40: start = 1. -/
theorem test_idle_starts : after (step (State.launch (cfg 2 4 2 2 1) noEnv)) (fun t =>
    hostStatus t == 0x01 && t.isOpen && t.ph == encode .fetch) = true := by decide
/-- R113, R114: no step. -/
theorem test_final_phases : exec .endPhase (at_ (cfg 2 4 2 2 1) noEnv .endPhase) = .fault .stuckEnd ∧
    exec .errPhase (at_ (cfg 2 4 2 2 1) noEnv .errPhase) = .fault .stuckErr := ⟨rfl, rfl⟩
/-- R43: a buffer without value is not read. -/
theorem test_unwritten_frame_stops : exec .shift (at_ (cfg 2 4 2 2 1) noEnv .shift) = .fault (.noValue .fb) := rfl

/-! ### The step, the reset state, traces -/

/-- Every row of the table, placed where the step finds its operation, is the operation the step runs (R18). -/
theorem test_table_word_runs : Instr.all.all (fun i =>
    selected (State.reset.withFetchWord 8 (encode i).toNat) == .ok i) = true := by decide

/-- R158: reset overrides the final phases too. -/
theorem test_reset_leaves_end : after (step { at_ (cfg 2 4 2 2 1) noEnv .endPhase with
    pins := { reset := true, start := false }, rc := 7, out := [1] }) (fun t =>
    t.ph == encode .idle && t.rc == 0 && t.out == [] && hostStatus t == 0x00) = true := by decide

/-- R76: the reserved codes have no step. -/
theorem test_reserved_refused : step { at_ (cfg 2 4 2 2 1) noEnv .idle with ph := 13 }
    = .refused (.reservedPhase 13) := rfl

/-- R11: an invalid configuration has no step. -/
theorem test_invalid_refused : step (at_ (cfg 2 4 2 2 3) noEnv .idle) = .refused .invalidConfig := rfl

/-- R170: a source that does not conform has no step. -/
theorem test_nonconforming_refused : step (at_ (cfg 2 4 2 2 1) (env [[[true]]] [] .eos .short) .idle)
    = .refused .nonconformingSource := rfl

/-- R83: the notes of P1's lines 3 and 11 as data. -/
theorem test_trace_notes :
    noteOf .shift { at_ (cfg 2 4 2 2 1) noEnv .shift with fb := some [[false, true], [true, false]], ry := 1 }
      = .pixel true 0 1 ∧
    noteOf .stb { at_ (cfg 2 4 2 2 1) noEnv .stb with sr := 0x6A } = .stored 0 0x6A := by decide

/-- R90: the step counts of P1's PACK and RUN(1). -/
theorem test_macro_lengths : (packMacro (cfg 2 4 2 2 1)).length = 9 ∧ (runMacro (cfg 2 4 2 2 1) 1).length = 21 := by
  decide

/-- R130 on V13's record. -/
theorem test_unpack_V13 : unpack (cfg 4 3 2 2 1) [0xA7, 0xC0] = bitmap [[1, 0, 1, 1], [0, 0, 1, 0], [1, 1, 1, 0]] := by
  decide

/-- V43 and V44: the count, the cause and the cursors of a run the audio ends. -/
theorem test_contract_V43 : let e := env [[[true]], [[true]], [[true]]] (List.replicate 11 0) .eos .short
    recordCount (cfg 1 1 2 0 2) e = 5 ∧ endCause (cfg 1 1 2 0 2) e = .aend ∧ finalVcur (cfg 1 1 2 0 2) e = 3 ∧
      finalAcur (cfg 1 1 2 0 2) e = 11 ∧ finalPoll (cfg 1 1 2 0 2) e = 3 := by decide

/-- V49: cancel beats the failure of the video source. -/
theorem test_contract_V49 : let e : Env :=
      ⟨[[[true]], [[true]], [[true]]], .fail, List.replicate 100 0, .short, [false, false, false, true]⟩
    recordCount (cfg 1 1 2 0 2) e = 6 ∧ endCause (cfg 1 1 2 0 2) e = .canc ∧ finalVcur (cfg 1 1 2 0 2) e = 3 ∧
      finalAcur (cfg 1 1 2 0 2) e = 12 ∧ finalPoll (cfg 1 1 2 0 2) e = 4 := by decide

/-! ### Witnesses: a state of a run in each phase (a 1 by 1 bitmap, N = 1, DUP = 1) -/

/-- The configuration of P5. -/
def c1 : Cfg := cfg 1 1 1 0 1

/-- The environment of P5. -/
def e1 : Env := env [[[true]]] [0xAB, 0xCD] .fail .fail

/-- A running state of the first record in phase `i`: the frame is delivered. -/
def run1 (i : Instr) : State :=
  { at_ c1 e1 i with status := busy, isOpen := true, vcur := 1, poll := 1, fb := some [[true]] }

/-- The record is packed. -/
def packed1 (i : Instr) : State := { run1 i with cx := 1, bi := 1, rb := [(0, 0x80)] }

/-- The record is staged. -/
def staged1 (i : Instr) : State := { packed1 i with ac := 1, acur := 1, smp := 0xAB, ab := [(0, 0xAB)] }

/-- The record is out and counted. -/
def out1 (i : Instr) : State :=
  { staged1 i with ac := 0, rc := 1, out := [0x80, 0xAB] }

theorem bufferInv_nil (n : Nat) : BufferInv n [] := ⟨rfl, fun _ _ => rfl⟩

theorem bufferInv_one (v : Byte) : BufferInv 1 [(0, v)] := by
  refine ⟨rfl, fun a ha => ?_⟩
  have : a ≠ 0 := by omega
  simp [Memory.read, this]

theorem inv_fetch : Inv 1 (out1 .fetch) :=
  ⟨.fetch, rfl, ⟨by decide, by decide, by decide, by decide, rfl, bufferInv_one _, bufferInv_one _⟩, trivial,
    ⟨rfl, rfl⟩, ⟨rfl, by decide, by decide, fun _ _ => rfl⟩, rfl, rfl⟩

theorem inv_shift : Inv 0 (run1 .shift) :=
  ⟨.shift, rfl, ⟨by decide, by decide, by decide, by decide, rfl, bufferInv_nil _, bufferInv_nil _⟩,
    ⟨[[true]], ⟨rfl, by decide⟩, fun j hj => absurd hj (Nat.not_lt_zero j),
      ⟨by decide, fun j hj => absurd hj (Nat.not_lt_zero j)⟩, by decide, by decide, by decide, rfl⟩,
    ⟨rfl, rfl⟩, ⟨rfl, by decide, by decide, fun _ _ => rfl⟩, rfl, rfl⟩

/-- The only pixel is in, the byte is not full. -/
def pad1 : State := { run1 .pad with cx := 1, sr := 1, bc := 1 }

theorem inv_pad : Inv 0 pad1 :=
  ⟨.pad, rfl, ⟨by decide, by decide, by decide, by decide, rfl, bufferInv_nil _, bufferInv_nil _⟩,
    ⟨[[true]], ⟨rfl, by decide⟩, fun j hj => absurd hj (Nat.not_lt_zero j), ⟨by decide, by decide⟩,
      rfl, rfl, by decide, by decide, by decide, rfl⟩,
    ⟨rfl, rfl⟩, ⟨rfl, by decide, by decide, fun _ _ => rfl⟩, rfl, rfl⟩

/-- The byte is full. -/
def stb1 : State := { run1 .stb with cx := 1, sr := 0x80, bc := 8 }

theorem inv_stb : Inv 0 stb1 :=
  ⟨.stb, rfl, ⟨by decide, by decide, by decide, by decide, rfl, bufferInv_nil _, bufferInv_nil _⟩,
    ⟨[[true]], ⟨rfl, by decide⟩, fun j hj => absurd hj (Nat.not_lt_zero j), ⟨by decide, by decide⟩, rfl,
      .inr ⟨rfl, rfl, rfl⟩⟩,
    ⟨rfl, rfl⟩, ⟨rfl, by decide, by decide, fun _ _ => rfl⟩, rfl, rfl⟩

theorem packed_holds (s : State) (hc : s.cfg = c1) (hf : s.fb = some [[true]]) (hr : s.rb = [(0, 0x80)])
    (h : s.cx = 1 ∧ s.ry = 0 ∧ s.bc = 0 ∧ s.sr = 0 ∧ s.bi = 1) : Packed s := by
  refine ⟨[[true]], ⟨hf, by rw [hc]; decide⟩, ?_, by rw [hc]; exact h.1, h.2.1, h.2.2.1, h.2.2.2.1,
    by rw [hc, h.2.2.2.2]; rfl⟩
  intro j hj
  obtain rfl : j = 0 := by omega
  rw [hc, hr]
  decide

theorem inv_lda : Inv 0 (packed1 .lda) :=
  ⟨.lda, rfl, ⟨by decide, by decide, by decide, by decide, rfl, bufferInv_one _, bufferInv_nil _⟩,
    packed_holds _ rfl rfl rfl ⟨rfl, rfl, rfl, rfl, rfl⟩,
    ⟨by decide, rfl, fun j hj => absurd hj (Nat.not_lt_zero j)⟩,
    ⟨rfl, by decide, by decide, fun _ _ => rfl⟩, rfl, rfl⟩

/-- The sample is in SMP. -/
def qnt1 : State := { packed1 .qnt with acur := 1, smp := 0xAB }

theorem inv_qnt : Inv 0 qnt1 :=
  ⟨.qnt, rfl, ⟨by decide, by decide, by decide, by decide, rfl, bufferInv_one _, bufferInv_nil _⟩,
    packed_holds _ rfl rfl rfl ⟨rfl, rfl, rfl, rfl, rfl⟩,
    ⟨by decide, rfl, fun j hj => absurd hj (Nat.not_lt_zero j)⟩,
    ⟨rfl, by decide, by decide, fun _ _ => rfl⟩, rfl, rfl⟩

theorem staged_holds (s : State) (ha : s.ab = [(0, 0xAB)]) : ChunkStaged s 1 := by
  intro j hj
  obtain rfl : j = 0 := by omega
  rw [ha]
  rfl

theorem inv_wrv : Inv 0 (staged1 .wrv) :=
  ⟨.wrv, rfl, ⟨by decide, by decide, by decide, by decide, rfl, bufferInv_one _, bufferInv_one _⟩,
    packed_holds _ rfl rfl rfl ⟨rfl, rfl, rfl, rfl, rfl⟩, ⟨rfl, rfl, staged_holds _ rfl⟩,
    ⟨rfl, by decide, by decide, fun _ _ => rfl⟩, rfl, rfl⟩

/-- The video byte is out. -/
def wra1 : State := { staged1 .wra with out := [0x80] }

theorem inv_wra : Inv 0 wra1 :=
  ⟨.wra, rfl, ⟨by decide, by decide, by decide, by decide, rfl, bufferInv_one _, bufferInv_one _⟩,
    packed_holds _ rfl rfl rfl ⟨rfl, rfl, rfl, rfl, rfl⟩, ⟨rfl, rfl, staged_holds _ rfl⟩,
    ⟨rfl, by decide, by decide, fun _ _ => rfl⟩, rfl, rfl⟩

/-- The record is out, not yet counted. -/
def nxt1 : State := { staged1 .nxt with out := [0x80, 0xAB] }

theorem inv_nxt : Inv 0 nxt1 :=
  ⟨.nxt, rfl, ⟨by decide, by decide, by decide, by decide, rfl, bufferInv_one _, bufferInv_one _⟩,
    packed_holds _ rfl rfl rfl ⟨rfl, rfl, rfl, rfl, rfl⟩, ⟨rfl, rfl, staged_holds _ rfl⟩,
    ⟨rfl, by decide, by decide, fun _ _ => rfl⟩, rfl, rfl⟩

/-- The end P5 reaches. -/
def err1 : State :=
  { out1 .errPhase with
    isOpen := false, poll := 2, status := { busy := false, done := false, errf := true, cause := .vfail } }

theorem inv_err : Inv 1 err1 :=
  ⟨.errPhase, rfl, ⟨by decide, by decide, by decide, by decide, rfl, bufferInv_one _, bufferInv_one _⟩, trivial,
    ⟨by decide, by decide, by decide⟩, ⟨rfl, by decide, by decide, fun _ _ => rfl⟩, rfl, rfl, rfl⟩

/-- A normal end after one record. -/
def end1 : State :=
  { out1 .endPhase with
    isOpen := false, poll := 2, status := { busy := false, done := true, errf := false, cause := .vend } }

theorem inv_end : Inv 1 end1 :=
  ⟨.endPhase, rfl, ⟨by decide, by decide, by decide, by decide, rfl, bufferInv_one _, bufferInv_one _⟩, trivial,
    ⟨by decide, by decide, by decide⟩, ⟨rfl, by decide, by decide, fun _ _ => rfl⟩, rfl, rfl, rfl⟩

theorem inv_launch : Inv 0 (State.launch c1 e1) :=
  ⟨.idle, rfl, ⟨by decide, by decide, by decide, by decide, rfl, bufferInv_nil _, bufferInv_nil _⟩,
    ⟨rfl, rfl, rfl, rfl, rfl, rfl⟩, ⟨rfl, rfl⟩, ⟨rfl, by decide, by decide, fun _ _ => rfl⟩, rfl, rfl, rfl⟩

theorem streamInv_launch : StreamInv 0 (State.launch c1 e1) :=
  ⟨.idle, rfl, ⟨rfl, rfl, rfl, by decide⟩, rfl⟩

/-- Polls 0 to `n` - 1 of an environment whose cancel list begins with that many zeros. -/
theorem notCancelled_of_list (e : Env) (n : Nat) (h : (List.range n).all (fun q => !cancelAt e q) = true) :
    NotCancelledBefore e n := by
  intro q hq
  have := List.all_eq_true.1 h q (List.mem_range.2 hq)
  simpa using this

theorem streamInv_fetch : StreamInv 1 (out1 .fetch) :=
  ⟨.fetch, rfl, ⟨rfl, by decide, rfl, rfl, notCancelled_of_list _ _ (by decide), by decide⟩, by decide⟩

/-! ### Witnesses: for each statement with hypotheses, states and operands that meet them, clause by clause -/

theorem witness_DecodeInvertsEncode : Instr.wellFormed .errPhase = true ∧ decode 0b1100#4 = .ok .errPhase := by decide

/-- A reserved code in a conforming setup; an operation and a step that answer. -/
theorem witness_ReservedPhaseCodesRefused :
    (let s : State := { at_ c1 e1 .idle with ph := 13 };
      s.cfg.valid = true ∧ s.env.conforms s.cfg = true ∧ 12 < s.ph.toNat) ∧
    (∃ t, exec .pad pad1 = .next t) ∧ ∃ t, step pad1 = .next t :=
  ⟨by decide, ⟨_, rfl⟩, ⟨_, rfl⟩⟩

/-- The last pixel and the last pad of a 3 by 3 record, and its corner pixels. -/
theorem witness_PackedPixelMap :
    1 < videoSize (cfg 3 3 2 2 1) ∧ 8 * 1 + 0 < 3 * 3 ∧ 3 * 3 ≤ 8 * 1 + 7 ∧ 2 < (cfg 3 3 2 2 1).w ∧
      2 < (cfg 3 3 2 2 1).h := by decide

/-- A record with pads 0 and one with a pad set. -/
theorem witness_PackUnpackRoundTrip :
    (cfg 3 3 2 2 1).valid = true ∧ Bitmap.fits (cfg 3 3 2 2 1) [[true, false, true], [true, true, false], [false, false, true]] = true ∧
    [0xFF#8, 0x80#8].length = videoSize (cfg 3 3 2 2 1) ∧ [0xFF#8, 0x81#8].length = videoSize (cfg 3 3 2 2 1) ∧
    6 < npad (cfg 3 3 2 2 1) := by decide

theorem witness_QuantizerDivides :
    (cfg 1 1 1 7 1).shift ≤ 7 ∧ 8 - (cfg 1 1 1 7 1).shift ≤ 1 ∧ 0 < 8 - (cfg 1 1 1 7 1).shift ∧
      (cfg 1 1 1 0 1).shift = 0 ∧ (cfg 1 1 1 2 1).shift = 2 := by decide

theorem witness_QuantizerNotIdempotent : (cfg 1 1 1 1 1).shift ≤ 7 ∧ 1 ≤ (cfg 1 1 1 1 1).shift := by decide

/-- The last video byte and the first audio byte of record 0 (P1: VIDEO_SIZE = 1, RECORD_SIZE = 3). -/
theorem witness_StreamAddressMap :
    0 < 1 * recordSize (cfg 2 4 2 2 1) ∧ 0 % recordSize (cfg 2 4 2 2 1) < videoSize (cfg 2 4 2 2 1) ∧
    1 < 1 * recordSize (cfg 2 4 2 2 1) ∧ videoSize (cfg 2 4 2 2 1) ≤ 1 % recordSize (cfg 2 4 2 2 1) := by decide

theorem witness_OnlyValidConfigurationsRun :
    (at_ (cfg 2 4 2 2 3) noEnv .idle).cfg.valid = false ∧
    (let c : Cfg := { cfg 1 1 1 2 1 with frameRate := 2 }; c.sampleRate < c.frameRate ∧ c.valid = true) := by decide

theorem witness_ResetInputOverrides :
    let s : State := { err1 with pins := { reset := true, start := false } }
    s.cfg.valid = true ∧ s.env.conforms s.cfg = true ∧ s.ph.toNat ≤ 12 ∧ s.pins.reset = true := by decide

theorem witness_StepRunsDecodedOperation :
    pad1.cfg.valid = true ∧ pad1.env.conforms pad1.cfg = true ∧ pad1.pins.reset = false ∧
      decode pad1.ph = .ok .pad ∧ decodeTableWord 8 12 = some .errPhase := by decide

theorem witness_SetupIsConstant : ∃ t, step pad1 = .next t := ⟨_, rfl⟩

/-- The last frame, and the two terminal answers. -/
theorem witness_VideoReadPrimitive :
    (at_ c1 e1 .fetch).vcur < (at_ c1 e1 .fetch).env.frames.length ∧ (at_ c1 e1 .fetch).env.conforms c1 = true ∧
    ((run1 .fetch).env.frames.length ≤ (run1 .fetch).vcur ∧ (run1 .fetch).env.vend = .fail) ∧
    ((at_ c1 noEnv .fetch).env.frames.length ≤ 0 ∧ (at_ c1 noEnv .fetch).env.vend = .eos) := by decide

/-- The last sample, and the two terminal answers. -/
theorem witness_AudioReadPrimitive :
    ({ at_ c1 e1 .lda with acur := 1 } : State).acur < e1.audio.length ∧
    (e1.audio.length ≤ ({ at_ c1 e1 .lda with acur := 2 } : State).acur ∧ e1.aend = .fail) ∧
    (noEnv.audio.length ≤ (at_ c1 noEnv .lda).acur ∧ noEnv.aend = .short) := by decide

theorem witness_OutputPrimitives : (run1 .wrv).isOpen = true ∧ ∃ t, outWrite (run1 .wrv) 0x80 = .ok t := ⟨rfl, ⟨_, rfl⟩⟩

/-- Two cancel lists that agree at poll 0 and differ after it. -/
theorem witness_CancelPollPrimitive :
    e1.cancel[0]? = some false ∧ (∃ t, exec .fetch (at_ c1 e1 .fetch) = .next t) ∧
    (let s := at_ c1 { e1 with cancel := [true] } .fetch; (∃ t, exec .fetch s = .next t) ∧ cancelAt s.env s.poll = true) ∧
    (∃ t, exec .pad pad1 = .next t) ∧
    cancelAt { (at_ c1 e1 .fetch).env with cancel := [false, true] } 0 = cancelAt (at_ c1 e1 .fetch).env 0 :=
  ⟨rfl, ⟨_, rfl⟩, ⟨⟨_, rfl⟩, rfl⟩, ⟨_, rfl⟩, rfl⟩

theorem witness_StartSampledOnlyInIdle :
    (State.launch c1 e1).pins.start = true ∧ (at_ c1 e1 .idle).ph = encode .idle ∧
    (at_ c1 e1 .idle).pins.start = false ∧ ∃ t, exec .pad pad1 = .next t :=
  ⟨rfl, rfl, rfl, ⟨_, rfl⟩⟩

theorem witness_FaultEntry : Running (run1 .fetch) := ⟨rfl, rfl⟩

theorem witness_ShiftMovesOnePixelIn :
    ((run1 .shift).fb = some [[true]] ∧ Bitmap.fits c1 [[true]] = true ∧ (run1 .shift).ry < c1.h ∧
      (run1 .shift).cx < c1.w) ∧ Inv 0 (run1 .shift) ∧ (run1 .shift).ph = encode .shift :=
  ⟨by decide, inv_shift, rfl⟩

theorem witness_PadMovesOneZeroIn : Inv 0 pad1 ∧ pad1.ph = encode .pad := ⟨inv_pad, rfl⟩

theorem witness_StbStoresTheByte : stb1.bi < videoSize stb1.cfg ∧ Inv 0 stb1 ∧ stb1.ph = encode .stb :=
  ⟨by decide, inv_stb, rfl⟩

theorem witness_LdaLoadsOneSample :
    (packed1 .lda).acur < (packed1 .lda).env.audio.length ∧
    (noEnv.audio.length ≤ (at_ c1 noEnv .lda).acur ∧ (at_ c1 noEnv .lda).env.aend = .short) ∧
    Inv 0 (packed1 .lda) ∧ (packed1 .lda).ph = encode .lda :=
  ⟨by decide, by decide, inv_lda, rfl⟩

theorem witness_AudioFailureFaults :
    let s : State := { packed1 .lda with acur := 2 }
    s.env.audio.length ≤ s.acur ∧ s.env.aend = .fail := by decide

theorem witness_QntStoresTheQuantizedSample : qnt1.ac < chunkLen qnt1.cfg ∧ Inv 0 qnt1 ∧ qnt1.ph = encode .qnt :=
  ⟨by decide, inv_qnt, rfl⟩

theorem witness_IdleWaitsForStart :
    (State.launch c1 e1).pins.start = true ∧ (at_ c1 e1 .idle).pins.start = false ∧
    (at_ c1 e1 .idle).ph = encode .idle ∧ (∃ t, exec .idle (at_ c1 e1 .idle) = .next t ∧ t.ph = encode .idle) ∧
    Inv 0 (State.launch c1 e1) ∧ (State.launch c1 e1).ph = encode .idle :=
  ⟨rfl, rfl, rfl, ⟨_, rfl, rfl⟩, inv_launch, rfl⟩

/-- Cancelled; a frame; the end of the video; its failure; a FETCH of a run. -/
theorem witness_FetchPollsThenGetsTheFrame :
    cancelAt { e1 with cancel := [true] } 0 = true ∧
    ((at_ c1 e1 .fetch).vcur < e1.frames.length ∧ cancelAt e1 (at_ c1 e1 .fetch).poll = false) ∧
    (cancelAt noEnv 0 = false ∧ noEnv.frames.length ≤ (at_ c1 noEnv .fetch).vcur ∧ noEnv.vend = .eos) ∧
    (cancelAt e1 (out1 .fetch).poll = false ∧ e1.frames.length ≤ (out1 .fetch).vcur ∧ e1.vend = .fail) ∧
    (∃ t, exec .fetch (out1 .fetch) = .next t ∧ t.ph = encode .errPhase ∧ t.status.cause = .vfail) ∧
    Inv 1 (out1 .fetch) ∧ StreamInv 1 (out1 .fetch) ∧ (out1 .fetch).ph = encode .fetch :=
  ⟨rfl, by decide, by decide, by decide, ⟨_, rfl, rfl, rfl⟩, inv_fetch, streamInv_fetch, rfl⟩

theorem witness_VideoFailureFaults :
    cancelAt (out1 .fetch).env (out1 .fetch).poll = false ∧
      (out1 .fetch).env.frames.length ≤ (out1 .fetch).vcur ∧ (out1 .fetch).env.vend = .fail := by decide

theorem witness_WrvWritesOneVideoByte :
    ((staged1 .wrv).oc < videoSize c1 ∧ Memory.read (staged1 .wrv).rb 0 = some 0x80 ∧
      (staged1 .wrv).isOpen = true) ∧ Inv 0 (staged1 .wrv) ∧ (staged1 .wrv).ph = encode .wrv :=
  ⟨by decide, inv_wrv, rfl⟩

theorem witness_WraWritesOneAudioByte :
    (wra1.oc < chunkLen c1 ∧ Memory.read wra1.ab 0 = some 0xAB ∧ wra1.isOpen = true) ∧ Inv 0 wra1 ∧
      wra1.ph = encode .wra :=
  ⟨by decide, inv_wra, rfl⟩

/-- The last record of a frame; the first of two. -/
theorem witness_NxtCountsTheRecord :
    nxt1.cfg.dup = 1 ∧ nxt1.dc + 1 = nxt1.cfg.dup ∧ (at_ (cfg 1 1 1 0 2) e1 .nxt).dc + 1 ≠ (cfg 1 1 1 0 2).dup ∧ Inv 0 nxt1 ∧
      nxt1.ph = encode .nxt :=
  ⟨rfl, rfl, by decide, inv_nxt, rfl⟩

theorem witness_HltClosesTheOutput :
    (∃ t, exec .fetch (at_ c1 noEnv .fetch) = .next t ∧ t.ph = encode .hlt) ∧
    ∃ t, exec .lda (at_ c1 noEnv .lda) = .next t ∧ t.ph = encode .hlt :=
  ⟨⟨_, rfl, rfl⟩, ⟨_, rfl, rfl⟩⟩

theorem witness_FinalPhasesHaveNoStep :
    (RunOver err1 ∧ err1.pins.reset = false) ∧
    (let s : State := { end1 with pins := { reset := true, start := false } };
      s.cfg.valid = true ∧ s.env.conforms s.cfg = true ∧ RunOver s ∧ s.pins.reset = true) ∧
    (Inv 1 end1 ∧ end1.ph = encode .endPhase) ∧ (Inv 1 err1 ∧ err1.ph = encode .errPhase) ∧
    ∃ t, exec .fetch (out1 .fetch) = .next t ∧ t.ph = encode .errPhase :=
  ⟨⟨.inr rfl, rfl⟩, ⟨by decide, by decide, .inl rfl, rfl⟩, ⟨inv_end, rfl⟩, ⟨inv_err, rfl⟩, ⟨_, rfl, rfl⟩⟩

/-- One state for each of the ten stops, at the boundary of its range. -/
theorem witness_StopsOutsideRuns :
    (at_ c1 e1 .shift).fb = none ∧
    (let s : State := { run1 .shift with ry := 1 }; s.fb ≠ none ∧ (s.cfg.h ≤ s.ry ∨ s.cfg.w ≤ s.cx)) ∧
    (let s : State := { stb1 with bi := 1 }; videoSize s.cfg ≤ s.bi) ∧
    (let s : State := { qnt1 with ac := 1 }; chunkLen s.cfg ≤ s.ac) ∧
    (let s := run1 .wrv; s.oc < videoSize s.cfg ∧ Memory.read s.rb s.oc = none) ∧
    (let s : State := { staged1 .wrv with oc := 1 }; videoSize s.cfg ≤ s.oc) ∧
    (let s : State := { staged1 .wrv with isOpen := false };
      s.oc < videoSize s.cfg ∧ Memory.read s.rb s.oc = some 0x80 ∧ s.isOpen = false) ∧
    (let s := packed1 .wra; s.oc < chunkLen s.cfg ∧ Memory.read s.ab s.oc = none) ∧
    (let s : State := { wra1 with oc := 1 }; chunkLen s.cfg ≤ s.oc) ∧
    (let s : State := { wra1 with isOpen := false };
      s.oc < chunkLen s.cfg ∧ Memory.read s.ab s.oc = some 0xAB ∧ s.isOpen = false) := by decide

/-- One row of the table met: from `s`, whose phase is `i`, the step leads to `j` and the row's condition holds. -/
def rowMet (i : Instr) (s : State) (c : State → Bool) (j : Instr) : Bool :=
  s.ph == encode i && !s.pins.reset && after (step s) fun t => c t && t.ph == encode j

/-- A configuration with N = 0. -/
def c0 (dup : Nat) : Cfg := { w := 1, h := 1, sampleRate := 1, frameRate := 2, shift := 0, dup := dup }

/-- Every row of R119 met by a state and its step, in the order of the table. -/
theorem witness_TransitionTable_rows :
    rowMet .idle (at_ c1 e1 .idle) (fun _ => true) .idle ∧
    rowMet .idle (State.launch c1 e1) (fun _ => true) .fetch ∧
    rowMet .fetch (at_ c1 { e1 with cancel := [true] } .fetch) (fun t => t.vcur == 0) .hlt ∧
    rowMet .fetch (at_ c1 e1 .fetch) (fun t => t.vcur == 1) .shift ∧
    rowMet .fetch (at_ c1 noEnv .fetch) (fun t => t.status.cause == .vend) .hlt ∧
    rowMet .fetch (out1 .fetch) (fun t => t.status.cause == .vfail) .errPhase ∧
    rowMet .shift { run1 .shift with bc := 7 } (fun t => t.bc == 8) .stb ∧
    rowMet .shift (run1 .shift) (fun t => t.bc < 8 && t.cx == 1) .pad ∧
    rowMet .shift { at_ (cfg 1 2 1 0 1) noEnv .shift with fb := some [[true], [false]] }
      (fun t => t.bc < 8 && t.cx < 1) .shift ∧
    rowMet .pad { pad1 with bc := 7 } (fun t => t.bc == 8) .stb ∧
    rowMet .pad pad1 (fun t => t.bc < 8) .pad ∧
    rowMet .stb { stb1 with cx := 0 } (fun t => t.cx < 1) .shift ∧
    rowMet .stb stb1 (fun t => t.cx == 1) .lda ∧
    rowMet .stb { at_ (c0 1) noEnv .stb with cx := 1, bc := 8 } (fun t => t.cx == 1) .wrv ∧
    rowMet .lda (packed1 .lda) (fun t => t.smp == 0xAB) .qnt ∧
    rowMet .lda (at_ c1 noEnv .lda) (fun t => t.status.cause == .aend) .hlt ∧
    rowMet .lda { packed1 .lda with acur := 2 } (fun t => t.status.cause == .afail) .errPhase ∧
    rowMet .qnt (at_ (cfg 1 1 2 0 1) noEnv .qnt) (fun t => t.ac < 2) .lda ∧
    rowMet .qnt qnt1 (fun t => t.ac == 1) .wrv ∧
    rowMet .wrv { at_ (cfg 3 3 1 0 1) noEnv .wrv with rb := [(0, 1), (1, 0x80)], isOpen := true }
      (fun t => t.oc == 1) .wrv ∧
    rowMet .wrv (staged1 .wrv) (fun t => t.oc == 0) .wra ∧
    rowMet .wrv { at_ (c0 1) noEnv .wrv with rb := [(0, 0x80)], isOpen := true } (fun t => t.oc == 0) .nxt ∧
    rowMet .wra { at_ (cfg 1 1 2 0 1) noEnv .wra with ab := [(0, 1), (1, 2)], isOpen := true }
      (fun t => t.oc == 1) .wra ∧
    rowMet .wra wra1 (fun t => t.oc == 0) .nxt ∧
    rowMet .nxt nxt1 (fun t => t.dc == 0) .fetch ∧
    rowMet .nxt (at_ (cfg 1 1 1 0 2) noEnv .nxt) (fun t => t.dc == 1) .lda ∧
    rowMet .nxt (at_ (c0 2) noEnv .nxt) (fun t => t.dc == 1) .wrv ∧
    rowMet .hlt (out1 .hlt) (fun _ => true) .endPhase := by decide

/-- The row of reset; a state of a run in each phase of the last clause; a run that is not over. -/
theorem witness_TransitionTable :
    (∃ t, step { pad1 with pins := { reset := true, start := false } } = .next t) ∧
    (Inv 0 (run1 .shift) ∧ (run1 .shift).ph = encode .shift) ∧ (Inv 0 pad1 ∧ pad1.ph = encode .pad) ∧
    (Inv 0 stb1 ∧ stb1.ph = encode .stb) ∧ (Inv 0 qnt1 ∧ qnt1.ph = encode .qnt) ∧
    (Inv 0 (staged1 .wrv) ∧ (staged1 .wrv).ph = encode .wrv) ∧ (Inv 0 wra1 ∧ wra1.ph = encode .wra) ∧
    (Inv 0 nxt1 ∧ nxt1.ph = encode .nxt) ∧ pad1.pins.reset = false ∧ ¬ RunOver pad1 :=
  ⟨⟨_, rfl⟩, ⟨inv_shift, rfl⟩, ⟨inv_pad, rfl⟩, ⟨inv_stb, rfl⟩, ⟨inv_qnt, rfl⟩, ⟨inv_wrv, rfl⟩, ⟨inv_wra, rfl⟩,
    ⟨inv_nxt, rfl⟩, rfl, by unfold RunOver; decide⟩

theorem witness_WritersOfEachRegister : ∃ t, exec .pad pad1 = .next t := ⟨_, rfl⟩

theorem witness_CursorsOnlyAdvance :
    (at_ c1 e1 .fetch).pins.reset = false ∧ ∃ t, step (at_ c1 e1 .fetch) = .next t ∧ t.vcur ≠ 0 :=
  ⟨rfl, ⟨_, rfl, by decide⟩⟩

theorem witness_ResetMeetsInvariants : c1.valid = true ∧ e1.conforms c1 = true := by decide

theorem witness_StepKeepsInvariant : Inv 0 nxt1 ∧ ∃ t, step nxt1 = .next t := ⟨inv_nxt, ⟨_, rfl⟩⟩

theorem witness_StepKeepsStreamInvariant :
    Inv 0 (State.launch c1 e1) ∧ StreamInv 0 (State.launch c1 e1) ∧ ∃ t, step (State.launch c1 e1) = .next t :=
  ⟨inv_launch, streamInv_launch, ⟨_, rfl⟩⟩

theorem witness_RunsNeverGetStuck : Inv 0 (staged1 .wrv) := inv_wrv

/-- A state at a record boundary, one with the record out and uncounted, one of a run that is over. -/
theorem witness_WholeRecordsOutsideCommits :
    (Inv 1 (out1 .fetch) ∧ (out1 .fetch).ph ≠ encode .wrv ∧ (out1 .fetch).ph ≠ encode .wra ∧
      (out1 .fetch).ph ≠ encode .nxt) ∧ (Inv 0 nxt1 ∧ nxt1.ph ≠ encode .wrv ∧ nxt1.ph ≠ encode .wra) ∧
    Inv 1 err1 ∧ RunOver err1 :=
  ⟨⟨inv_fetch, by decide, by decide, by decide⟩, ⟨inv_nxt, by decide, by decide⟩, inv_err, .inr rfl⟩

theorem witness_PackingStoresThePackedRecord :
    let s := run1 .shift
    s.cfg.valid = true ∧ s.env.conforms s.cfg = true ∧ s.pins.reset = false ∧ s.ph = encode .shift ∧
      s.fb = some [[true]] ∧ Bitmap.fits s.cfg [[true]] = true ∧ s.cx = 0 ∧ s.ry = 0 ∧ s.sr = 0 ∧ s.bc = 0 ∧
      s.bi = 0 := by decide

/-- Exactly N bytes left, and one fewer. -/
theorem witness_ChunkStagesTheSamples :
    (let s := packed1 .lda;
      s.cfg.valid = true ∧ s.env.conforms s.cfg = true ∧ s.pins.reset = false ∧ s.ph = encode .lda ∧ s.ac = 0 ∧
      0 < chunkLen s.cfg ∧ ({ s with acur := 1 } : State).acur + chunkLen s.cfg ≤ s.env.audio.length) ∧
    (let s : State := { packed1 .lda with acur := 2 };
      s.acur ≤ s.env.audio.length ∧ s.env.audio.length < s.acur + chunkLen s.cfg) := by decide

theorem witness_CommitWritesTheStagedRecord :
    let s := staged1 .wrv
    s.cfg.valid = true ∧ s.env.conforms s.cfg = true ∧ s.pins.reset = false ∧ s.ph = encode .wrv ∧ s.oc = 0 ∧
      s.isOpen = true ∧ [0x80#8].length = videoSize s.cfg ∧ [0xAB#8].length = chunkLen s.cfg ∧
      (∀ j, j < videoSize s.cfg → Memory.read s.rb j = [0x80#8][j]?) ∧
      (∀ j, j < chunkLen s.cfg → Memory.read s.ab j = [0xAB#8][j]?) := by decide

theorem witness_RunWritesTheIdealStream : c1.valid = true ∧ e1.conforms c1 = true := by decide

theorem witness_CoreRunsEnd : (cfg 1 1 1 0 2).valid = true ∧ noEnv.conforms (cfg 1 1 1 0 2) = true := by decide

/-- P1: exactly enough audio. -/
theorem witness_CompleteRunIsTheRunMacro :
    let c := cfg 2 4 2 2 1
    let e := env [[[false, true], [true, false], [true, true], [false, false]]] [0xFF, 0x80] .eos .short
    c.valid = true ∧ e.conforms c = true ∧ NotCancelledBefore e (e.frames.length + 1) ∧ e.vend = .eos ∧
      c.dup * e.frames.length * chunkLen c ≤ e.audio.length :=
  ⟨by decide, by decide, notCancelled_of_list _ _ (by decide), rfl, by decide⟩

/-- P2. -/
theorem witness_DuplicationWritesTheRecordTwice :
    let c := cfg 4 2 1 2 2
    let b : Bitmap := [[true, false, false, true], [true, true, false, false]]
    let e := env [b] [0x04, 0xFC] .eos .short
    c.valid = true ∧ e.conforms c = true ∧ c.dup = 2 ∧ e.frames = [b] ∧ e.audio.length = 2 * chunkLen c ∧
      e.vend = .eos ∧ NotCancelledBefore e 2 :=
  ⟨by decide, by decide, rfl, rfl, rfl, rfl, notCancelled_of_list _ _ (by decide)⟩

/-- A run cancelled at its first poll, and the run not cancelled (no frames). -/
theorem witness_CancelledRunIsAPrefix :
    let e : Env := { noEnv with cancel := [true] }
    c1.valid = true ∧ e.conforms c1 = true ∧
    NotCancelledBefore { e with cancel := [false, false] } (e.frames.length + 1) ∧
    (∃ t, runFor 3 (State.launch c1 e) = .next t ∧ RunOver t ∧ t.status.cause = .canc) ∧
    ∃ u, runFor 3 (State.launch c1 { e with cancel := [false, false] }) = .next u ∧ RunOver u :=
  ⟨by decide, by decide, notCancelled_of_list _ _ (by decide), ⟨_, rfl, .inl rfl, rfl⟩, ⟨_, rfl, .inl rfl⟩⟩

/-- A run that ends at its first FETCH: the output is empty. -/
theorem witness_RecordSizeInvariant :
    c1.valid = true ∧ noEnv.conforms c1 = true ∧ ∃ t, runFor 3 (State.launch c1 noEnv) = .next t ∧ RunOver t :=
  ⟨by decide, by decide, ⟨_, rfl, .inl rfl⟩⟩

/-- P5: seventeen steps to the fault, one whole record out. -/
theorem witness_ReaderRecoversTheFrames :
    c1.valid = true ∧ e1.conforms c1 = true ∧
      ∃ t, runFor 17 (State.launch c1 e1) = .next t ∧ RunOver t ∧ t.out = [0x80, 0xAB] :=
  ⟨by decide, by decide, ⟨_, rfl, .inr rfl, rfl⟩⟩

end Sys2Proof.Tests
end

section
/-! PROOFS of the obligations about the scope (spec/00_scope.md): the configurations that run (R11). -/

namespace Sys2Proof.Machine

/-- A model refuses an invalid configuration (R11), whatever its phase and its reset input are. -/
theorem step_of_invalid (s : State) (h : s.cfg.valid = false) : step s = .refused .invalidConfig := by
  have hr : setupRefusal s = some .invalidConfig := by simp [setupRefusal, h]
  simp [step, hr]

/-- N = SAMPLE_RATE div FRAME_RATE is 0 when there are fewer samples than frames in a second (R10, R11). -/
theorem chunkLen_eq_zero_of_lt (c : Cfg) (h : c.sampleRate < c.frameRate) : chunkLen c = 0 :=
  Nat.div_eq_of_lt h

/-- With N = 0 the Audio Chunk is empty (R11). -/
theorem audioChunk_eq_nil (c : Cfg) (e : Env) (k : Nat) (h : chunkLen c = 0) : audioChunk c e k = [] :=
  List.eq_nil_of_length_eq_zero ((audioChunk_length c e k).trans h)

/-- With N = 0 a Stream Record is the Packed Video Record alone (R11). -/
theorem srec_eq_pack (c : Cfg) (e : Env) (k : Nat) (h : chunkLen c = 0) :
    srec c e k = pack c (recordFrame c e k) := by
  rw [srec, audioChunk_eq_nil c e k h, List.append_nil]

/-- Settles O11: the check `Cfg.valid` is R11's list of conditions, `step` looks at it before anything else, and a
record's audio part has N bytes. -/
theorem onlyValidConfigurationsRun : Obligations.OnlyValidConfigurationsRun := by
  refine ⟨Cfg_valid_iff, step_of_invalid, fun c e k h => ?_, videoSize_pos⟩
  have hN : chunkLen c = 0 := chunkLen_eq_zero_of_lt c h
  exact ⟨hN, srec_eq_pack c e k hN⟩

end Sys2Proof.Machine
end

section
/-! PROOFS of the obligations about the state (spec/10_state.md): what a reset leaves in it (R45). -/

namespace Sys2Proof.Machine

section
variable (c : Cfg) (e : Env) (p : Pins)

/-- The reset phase is IDLE, whose code is 0 (R45, R75). -/
@[simp] theorem State.resetWith_ph : (State.resetWith c e p).ph = encode .idle := rfl

/-- The host reads STATUS = 0x00 after reset: no flag is set, and the cause NONE has code 0 (R32, R33, R45). -/
theorem hostStatus_resetWith : hostStatus (State.resetWith c e p) = 0x00#8 := by
  have hword : Status.word { busy := false, done := false, errf := false, cause := .none } = 0x00#8 := by decide
  exact hword

/-- No cell of the record buffer holds a value after reset (R43, R45). -/
theorem read_rb_resetWith (a : Nat) : Memory.read (State.resetWith c e p).rb a = none :=
  Memory.read_nil a

/-- No cell of the audio buffer holds a value after reset (R43, R45). -/
theorem read_ab_resetWith (a : Nat) : Memory.read (State.resetWith c e p).ab a = none :=
  Memory.read_nil a

end

/-- Settles O12: PH reads as IDLE, STATUS as 0x00 and every cell of RB and AB as no value by the lemmas about the reset
state; every other register is the field `State.resetWith` gives it. -/
theorem resetState : Obligations.ResetState := by
  intro c e p
  have hph : decode (State.resetWith c e p).ph = .ok .idle := by simp
  have hst : hostStatus (State.resetWith c e p) = 0x00#8 := hostStatus_resetWith c e p
  exact ⟨_, rfl, rfl, rfl, hph, rfl, rfl, rfl, rfl, rfl, rfl, rfl, rfl, rfl, rfl, hst, rfl, rfl, rfl, rfl, rfl,
    read_rb_resetWith c e p, read_ab_resetWith c e p, rfl, rfl, rfl, rfl, rfl⟩

end Sys2Proof.Machine
end

section
/-! PROOFS of the obligations about the sources, the sink and the output's address map (spec/20_memory.md): the read
primitives of the two sources (R49, R50), the two output primitives (R51), and what stands at an offset of the ideal
stream (R57). -/

namespace Sys2Proof.Machine

section
variable (s : State)

/-- `VidNext` with a frame left (R49). -/
theorem vidNext_of_lt (h : s.vcur < s.env.frames.length) :
    vidNext s = (.frame s.env.frames[s.vcur], { s with vcur := s.vcur + 1 }) := by
  obtain ⟨b, hb, e⟩ | ⟨hl, -⟩ | ⟨hl, -⟩ := vidNext_cases s
  · obtain ⟨_, rfl⟩ := List.getElem?_eq_some_iff.1 hb
    exact e
  · exact absurd h hl.not_gt
  · exact absurd h hl.not_gt

/-- `VidNext` at the end of a source that ends in EOS (R49). -/
theorem vidNext_of_eos (h : s.env.frames.length ≤ s.vcur) (hend : s.env.vend = .eos) : vidNext s = (.eos, s) := by
  obtain ⟨b, hb, -⟩ | ⟨-, -, e⟩ | ⟨-, hfail, -⟩ := vidNext_cases s
  · cases (List.getElem?_eq_none h).symm.trans hb
  · exact e
  · cases hend.symm.trans hfail

/-- `VidNext` at the end of a source that ends in FAIL (R49). -/
theorem vidNext_of_fail (h : s.env.frames.length ≤ s.vcur) (hend : s.env.vend = .fail) : vidNext s = (.fail, s) := by
  obtain ⟨b, hb, -⟩ | ⟨-, heos, -⟩ | ⟨-, -, e⟩ := vidNext_cases s
  · cases (List.getElem?_eq_none h).symm.trans hb
  · cases hend.symm.trans heos
  · exact e

/-- `AudNext` with a byte left (R50). -/
theorem audNext_of_lt (h : s.acur < s.env.audio.length) :
    audNext s = (.byte s.env.audio[s.acur], { s with acur := s.acur + 1 }) := by
  obtain ⟨v, hv, e⟩ | ⟨hl, -⟩ | ⟨hl, -⟩ := audNext_cases s
  · obtain ⟨_, rfl⟩ := List.getElem?_eq_some_iff.1 hv
    exact e
  · exact absurd h hl.not_gt
  · exact absurd h hl.not_gt

/-- `AudNext` at the end of a source that ends in SHORT (R50). -/
theorem audNext_of_short (h : s.env.audio.length ≤ s.acur) (hend : s.env.aend = .short) : audNext s = (.short, s) := by
  obtain ⟨v, hv, -⟩ | ⟨-, -, e⟩ | ⟨-, hfail, -⟩ := audNext_cases s
  · cases (List.getElem?_eq_none h).symm.trans hv
  · exact e
  · cases hend.symm.trans hfail

/-- `AudNext` at the end of a source that ends in FAIL (R50). -/
theorem audNext_of_fail (h : s.env.audio.length ≤ s.acur) (hend : s.env.aend = .fail) : audNext s = (.fail, s) := by
  obtain ⟨v, hv, -⟩ | ⟨-, hshort, -⟩ | ⟨-, -, e⟩ := audNext_cases s
  · cases (List.getElem?_eq_none h).symm.trans hv
  · cases hend.symm.trans hshort
  · exact e

/-- `OutWrite` to an open output is never refused (R51). -/
theorem outWrite_of_isOpen (v : Byte) (h : s.isOpen = true) : outWrite s v = .ok { s with out := s.out ++ [v] } :=
  (outWrite_ok_iff s _ v).2 ⟨h, rfl⟩

end

/-- Settles O16: the three cases of `vidNext` are told apart by VCUR and the source's end, and every frame of a
conforming source fits. -/
theorem videoReadPrimitive : Obligations.VideoReadPrimitive := by
  refine ⟨fun s h => ⟨vidNext_of_lt s h, fun hconf => ?_⟩, vidNext_of_eos, vidNext_of_fail⟩
  exact conforms_fits s.cfg s.env hconf _ (List.getElem_mem h)

/-- Settles O17: the three cases of `audNext` are told apart by ACUR and the source's end. -/
theorem audioReadPrimitive : Obligations.AudioReadPrimitive :=
  ⟨audNext_of_lt, audNext_of_short, audNext_of_fail⟩

/-- Settles O18: `outWrite` answers a state exactly when OPEN = 1, and that state has one byte more in OUT. -/
theorem outputPrimitives : Obligations.OutputPrimitives := by
  refine ⟨fun s v hopen => ⟨_, outWrite_of_isOpen s v hopen, rfl, ?_⟩, fun s t v h => ?_, fun _ => rfl⟩
  · exact List.length_append
  · exact ((outWrite_ok_iff s t v).1 h).1

section
variable (c : Cfg) (e : Env)

/-- An ideal record is RECORD_SIZE bytes (R72). -/
@[simp] theorem srec_length (k : Nat) : (srec c e k).length = recordSize c := by
  simp [srec, recordSize]

/-- The video part of an ideal record comes first (R72). -/
theorem getElem?_srec_video (k p : Nat) (h : p < videoSize c) :
    (srec c e k)[p]? = (pack c (recordFrame c e k))[p]? :=
  List.getElem?_append_left (by simpa using h)

/-- The audio part of an ideal record follows its VIDEO_SIZE video bytes (R72). -/
theorem getElem?_srec_audio (k p : Nat) (h : videoSize c ≤ p) :
    (srec c e k)[p]? = (audioChunk c e k)[p - videoSize c]? := by
  rw [srec, List.getElem?_append_right (by simpa using h), pack_length]

@[simp] theorem stream_zero : stream c e 0 = [] := rfl

/-- A stream grows by one ideal record at its end (R123). -/
theorem stream_succ (k : Nat) : stream c e (k + 1) = stream c e k ++ srec c e k := by
  simp [stream, List.range_succ]

/-- A stream of `k` records is `k * RECORD_SIZE` bytes (R73). -/
@[simp] theorem stream_length (k : Nat) : (stream c e k).length = k * recordSize c := by
  induction k with
  | zero => simp
  | succ k ih => simp [stream_succ, ih, Nat.succ_mul]

/-- Offset `o` of a stream is position `o mod RECORD_SIZE` of record `o div RECORD_SIZE` (R57): either `o` lies in the
shorter stream, or the last record begins `o mod RECORD_SIZE` bytes before it. -/
theorem getElem?_stream (k o : Nat) (h : o < k * recordSize c) :
    (stream c e k)[o]? = (srec c e (o / recordSize c))[o % recordSize c]? := by
  induction k with
  | zero => simp at h
  | succ k ih =>
    rw [stream_succ]
    by_cases ho : o < k * recordSize c
    · rw [List.getElem?_append_left (by simpa using ho), ih ho]
    · have hdiv : o / recordSize c = k := Nat.div_eq_of_lt_le (not_lt.1 ho) h
      have hmod : o - k * recordSize c = o % recordSize c := by
        rw [Nat.mod_eq_sub_div_mul, hdiv]
      rw [List.getElem?_append_right (by simpa using ho), stream_length, hdiv, hmod]

end

/-- Offset `o` belongs to a Packed Video Record (R57). -/
theorem placeOf_video (c : Cfg) (o : Nat) (h : o % recordSize c < videoSize c) :
    placeOf c o = .video (o / recordSize c) (o % recordSize c) :=
  if_pos h

/-- Offset `o` belongs to an Audio Chunk (R57). -/
theorem placeOf_audio (c : Cfg) (o : Nat) (h : videoSize c ≤ o % recordSize c) :
    placeOf c o = .audio (o / recordSize c) (o % recordSize c - videoSize c) :=
  if_neg h.not_gt

/-- Settles O10: the byte at an offset is a byte of one ideal record (`getElem?_stream`), whose video part comes first. -/
theorem streamAddressMap : Obligations.StreamAddressMap := by
  intro c e k o ho
  refine ⟨fun hp => ⟨placeOf_video c o hp, ?_⟩, fun hp => ⟨placeOf_audio c o hp, ?_⟩, ?_⟩
  · rw [getElem?_stream c e k o ho, getElem?_srec_video c e _ _ hp]
  · rw [getElem?_stream c e k o ho, getElem?_srec_audio c e _ _ hp]
  · have hlen : o < (stream c e k).length := by rwa [stream_length]
    rw [List.getElem?_eq_getElem hlen, Option.isSome_some]

end Sys2Proof.Machine
end

section
/-! PROOFS of the obligations about the encodings (spec/30_encoding.md): the pixel-to-bit map of the Packed Video Record
(R67, R68), the kinds of the sources' answers (R77, R78), and the layout of STATUS (R79). -/

namespace Sys2Proof.Machine

section
variable (c : Cfg) (b : Bitmap)

/-- Position `i` of the traversal is the pixel of column `i div H` and row `i mod H` (R68). -/
theorem packBit_of_lt (i : Nat) (h : i < npix c) : packBit c b i = pixelAt b (i % c.h) (i / c.h) :=
  if_pos h

/-- The positions after the last pixel are pads (R69). -/
theorem packBit_of_le (i : Nat) (h : npix c ≤ i) : packBit c b i = false :=
  if_neg h.not_gt

/-- The traversal position of a pixel is below W*H (R68). -/
theorem traversal_lt_npix (x y : Nat) (hx : x < c.w) (hy : y < c.h) : x * c.h + y < npix c :=
  calc x * c.h + y < (x + 1) * c.h := by rw [Nat.succ_mul]; omega
    _ ≤ npix c := Nat.mul_le_mul_right _ hx

/-- The pixel of column `x` and row `y` stands at position `x*H + y` of the traversal (R68). -/
theorem packBit_pixel (x y : Nat) (hx : x < c.w) (hy : y < c.h) : packBit c b (x * c.h + y) = pixelAt b y x := by
  have hrow : (x * c.h + y) % c.h = y := by rw [Nat.mul_add_mod', Nat.mod_eq_of_lt hy]
  have hcol : (x * c.h + y) / c.h = x := by
    rw [Nat.mul_comm, Nat.mul_add_div (by omega), Nat.div_eq_of_lt hy, Nat.add_zero]
  rw [packBit_of_lt c b _ (traversal_lt_npix c x y hx hy), hrow, hcol]

/-- The sum of R91 writes down a byte whose first bit is the most significant one (R67). -/
theorem packByte_eq_ofFnBE (j : Nat) :
    packByte c b j = BitVec.ofFnBE fun t : Fin 8 => packBit c b (8 * j + t) := by
  have hsum : ((List.range 8).map fun t => (packBit c b (8 * j + t)).toNat * 2 ^ (7 - t)).sum =
      (BitVec.ofFnBE fun t : Fin 8 => packBit c b (8 * j + t)).toNat := by
    -- both sides spelled out: eight bits with their weights, the library's in Horner form
    simp [List.range_succ, BitVec.toNat_ofFnBE, Nat.ofBits_succ]
    omega
  rw [packByte, hsum, BitVec.ofNat_toNat, BitVec.setWidth_eq]

/-- Bit `7 - t` of byte `j` of the record is traversal position `8j + t` (R67). -/
theorem packByte_bit (j t : Nat) (ht : t < 8) : (packByte c b j).getLsbD (7 - t) = packBit c b (8 * j + t) := by
  have hq : 7 - t < 8 := by omega
  have hrev : ((⟨7 - t, hq⟩ : Fin 8).rev : Nat) = t := by
    simp only [Fin.val_rev]
    omega
  rw [packByte_eq_ofFnBE, BitVec.getLsbD_ofFnBE, dif_pos hq, hrev]

/-- Byte `j` of the record, for each `j` below VIDEO_SIZE (R67). -/
theorem getElem?_pack (j : Nat) (h : j < videoSize c) : (pack c b)[j]? = some (packByte c b j) := by
  simp [pack, h]

/-- A traversal position of a pixel lies in a byte of the record (R10). -/
theorem div_eight_lt_videoSize (i : Nat) (h : i < npix c) : i / 8 < videoSize c := by
  have := (npix_le_videoSize c).1
  omega

/-- Position `i` of the traversal is bit `7 - (i mod 8)` of byte `i div 8` of the record (R68). -/
theorem packByte_bit_mod (i : Nat) : (packByte c b (i / 8)).getLsbD (7 - i % 8) = packBit c b i := by
  rw [packByte_bit c b _ _ (Nat.mod_lt i (by decide)), Nat.div_add_mod]

end

/-- Settles O6: both directions read traversal position `8j + t` out of bit `7 - t` of byte `j` (`packByte_bit`); in the
inverse direction `8j + t` is the quotient and the remainder of `x*H + y`. -/
theorem packedPixelMap : Obligations.PackedPixelMap := by
  refine ⟨fun c b j t hj ht => ?_, fun c b x y hx hy => ?_⟩
  · have hbit : (packByte c b j).getLsbD (7 - t) = packBit c b (8 * j + t) := packByte_bit c b j t (by omega)
    exact ⟨packByte c b j, getElem?_pack c b j hj, fun h => hbit.trans (packBit_of_lt c b _ h),
      fun h => hbit.trans (packBit_of_le c b _ h)⟩
  · have hj : (x * c.h + y) / 8 < videoSize c := div_eight_lt_videoSize c _ (traversal_lt_npix c x y hx hy)
    exact ⟨_, getElem?_pack c b _ hj, (packByte_bit_mod c b _).trans (packBit_pixel c b x y hx hy)⟩

/-- What stands at each bit of STATUS: the three flags, the cause's code at bits 6:4, 0 everywhere else (R32). -/
theorem Status.word_getLsbD (t : Status) (q : Nat) : t.word.getLsbD q =
    match q with
    | 0 => t.busy
    | 1 => t.done
    | 2 => t.errf
    | 4 => t.cause.code.getLsbD 0
    | 5 => t.cause.code.getLsbD 1
    | 6 => t.cause.code.getLsbD 2
    | _ => false := by
  by_cases hq : q < 8
  · simp only [Status.word, BitVec.getLsbD_append]
    interval_cases q <;> simp
  · obtain ⟨k, rfl⟩ := Nat.exists_eq_add_of_le' (not_lt.1 hq)
    exact BitVec.getLsbD_of_ge _ _ (Nat.le_add_left 8 k)

/-- Bits 6:4 of STATUS are the code of the cause (R32). -/
theorem Status.extractLsb_word (t : Status) : t.word.extractLsb 6 4 = t.cause.code := by
  apply BitVec.eq_of_getLsbD_eq
  intro q hq
  rw [BitVec.getLsbD_extractLsb, decide_eq_true hq, Bool.true_and]
  interval_cases q
  · exact t.word_getLsbD 4
  · exact t.word_getLsbD 5
  · exact t.word_getLsbD 6

/-- The code of a cause names it (R33). -/
@[simp] theorem Cause.ofCode_code (x : Cause) : Cause.ofCode x.code = some x := by cases x <;> rfl

/-- Settles O5: the eight bits of STATUS are those of `Status.word_getLsbD`, and the codes of R33 are the values of
`Cause.code` and `Cause.ofCode`. -/
theorem statusLayout : Obligations.StatusLayout := by
  refine ⟨fun t => ?_, rfl, rfl, rfl, rfl, rfl, rfl, rfl, rfl, Cause.ofCode_code, fun _ => rfl⟩
  have hbit := t.word_getLsbD
  exact ⟨hbit 0, hbit 1, hbit 2, hbit 3, t.extractLsb_word, hbit 7⟩

/-- No answer of the video source is of kind 3 (R77). -/
theorem videoKind_ne_three (a : VideoAnswer) : a.kind ≠ 0b11#2 := by
  cases a <;> simp [VideoAnswer.kind]

/-- No answer of the audio source is of kind 3 (R78). -/
theorem audioKind_ne_three (a : AudioAnswer) : a.kind ≠ 0b11#2 := by
  cases a <;> simp [AudioAnswer.kind]

/-- Settles O4: each kind names its answer and each answer has its kind by the tables of R77 and R78; a source gives
an answer, and no answer is of kind 3. -/
theorem answerKinds : Obligations.AnswerKinds :=
  ⟨fun _ _ => ⟨rfl, rfl, rfl, rfl, rfl, rfl, rfl, rfl⟩, fun _ => rfl, rfl, rfl, fun _ => rfl, rfl, rfl,
    fun s => ⟨videoKind_ne_three (vidNext s).1, audioKind_ne_three (audNext s).1⟩⟩

end Sys2Proof.Machine
end

section
/-! PROOFS of the obligations about the Bit Packer (spec/40_packer.md): what SHIFT (R93) and STB (R95) do to the state,
and what the invariant says where a run executes them. -/

namespace Sys2Proof.Machine

section
variable {k : Nat} {s : State}

/-- The invariant of a state whose phase is known: PH names one operation only, so the clauses are those of that
operation (R42). -/
theorem Inv.clauses_at (i : Instr) (h : Inv k s) (hph : s.ph = encode i) :
    CommonInv k s ∧ PackerInv i s ∧ AudioInv k i s ∧ OutputInv k i s ∧ StatusInv k i s := by
  obtain ⟨j, hj, hclauses⟩ := h
  obtain rfl : j = i := encode_injective (hj.symm.trans hph)
  exact hclauses

/-- The bits of SR at place BC and above are 0: nothing was shifted into them since SR was cleared (R98). -/
theorem ShiftHolds.getLsbD_eq_false {b : Bitmap} (h : ShiftHolds s b) (j : Nat) (hj : s.bc ≤ j) :
    s.sr.getLsbD j = false :=
  Nat.testBit_eq_false_of_lt (h.1.trans_le (Nat.pow_le_pow_right (by decide) hj))

end

/-- The traversal's next pixel, one counter at a time (R92). -/
theorem advancePixel_eq (c : Cfg) (cx ry : Nat) :
    advancePixel c cx ry = (if ry + 1 = c.h then cx + 1 else cx, if ry + 1 = c.h then 0 else ry + 1) := by
  unfold advancePixel
  split
  · rfl
  · rfl

section
variable (s : State)

/-- SHIFT completes wherever FB has the pixel (R93). -/
theorem execShift_of_pixel (p : Bool) (h : pixelOperand s.cfg s.fb s.ry s.cx = .ok p) :
    execShift s = .next ({ s with sr := shiftIn s.sr p, bc := s.bc + 1, cx := (advancePixel s.cfg s.cx s.ry).1,
                                  ry := (advancePixel s.cfg s.cx s.ry).2 }.goto
      (if s.bc + 1 = 8 then .stb
       else if (advancePixel s.cfg s.cx s.ry).1 = s.cfg.w then .pad else .shift)) := by
  simp only [execShift, h]

/-- STB completes wherever RB has the cell (R95). -/
theorem execStb_of_lt (h : s.bi < videoSize s.cfg) :
    execStb s = .next ({ s with rb := Memory.write s.rb s.bi s.sr, bi := s.bi + 1, sr := 0, bc := 0 }.goto
      (if s.cx = s.cfg.w then (if chunkLen s.cfg = 0 then .wrv else .lda) else .shift)) := by
  simp only [execStb, (writeCell_ok_iff _ _ _ _ _ _).2 ⟨h, rfl⟩]

end

/-- Where a run executes SHIFT it completes, and the bit it drops is 0: at most 7 bits were shifted in (R42, R93). -/
theorem Inv.at_shift {k : Nat} {s : State} (h : Inv k s) (hph : s.ph = encode .shift) :
    (∃ b, s.fb = some b ∧ Bitmap.fits s.cfg b = true) ∧ s.ry < s.cfg.h ∧ s.cx < s.cfg.w ∧
      s.sr.getLsbD 7 = false := by
  obtain ⟨-, ⟨b, hframe, -, hsr, hcx, hry, hbc, -⟩, -⟩ := h.clauses_at .shift hph
  exact ⟨⟨b, hframe⟩, hry, hcx, hsr.getLsbD_eq_false 7 hbc⟩

/-- Where a run executes STB the byte is full and has a cell. While pixels are left, the 8*BI + 8 bits so far are
fewer than the W*H pixels; after the last pixel, the byte is the record's last (R42, R95). -/
theorem Inv.at_stb {k : Nat} {s : State} (h : Inv k s) (hph : s.ph = encode .stb) :
    s.bc = 8 ∧ s.bi < videoSize s.cfg ∧ (s.cx = s.cfg.w → s.bi + 1 = videoSize s.cfg) ∧ s.ac = 0 ∧ s.oc = 0 := by
  obtain ⟨-, ⟨b, -, -, -, hbc, hplace⟩, ⟨hac, -⟩, ⟨-, -, -, hoc⟩, -⟩ := h.clauses_at .stb hph
  obtain ⟨hbi, hlast⟩ : s.bi < videoSize s.cfg ∧ (s.cx = s.cfg.w → s.bi + 1 = videoSize s.cfg) := by
    obtain ⟨hcx, hry, hpos⟩ | ⟨-, -, hlast⟩ := hplace
    · have hpix : s.cx * s.cfg.h + s.ry < npix s.cfg := traversal_lt_npix s.cfg s.cx s.ry hcx hry
      have hroom : npix s.cfg ≤ 8 * videoSize s.cfg := (npix_le_videoSize s.cfg).1
      exact ⟨by omega, fun hw => absurd hw hcx.ne⟩
    · exact ⟨by omega, fun _ => hlast⟩
  exact ⟨hbc, hbi, hlast, hac, hoc (by decide) (by decide)⟩

/-- Settles O22: a frame that fits has the pixel, so SHIFT completes (`execShift_of_pixel`), with the counters of
`advancePixel_eq`; in a run the conditions are the invariant's (`Inv.at_shift`). -/
theorem shiftMovesOnePixelIn : Obligations.ShiftMovesOnePixelIn := by
  refine ⟨fun s b hfb hfits hry hcx => ?_, fun k s => Inv.at_shift⟩
  have hpixel : pixelOperand s.cfg s.fb s.ry s.cx = .ok (pixelAt b s.ry s.cx) := by
    rw [hfb]
    exact pixelOperand_of_fits s.cfg b hfits s.ry s.cx hry hcx
  calc exec .shift s = _ := execShift_of_pixel s _ hpixel
    _ = _ := by simp only [State.goto, shiftIn, advancePixel_eq, apply_ite encode]

/-- Settles O24: RB has the cell, so STB completes (`execStb_of_lt`) and the write is read back at its own cell only;
in a run the conditions are the invariant's (`Inv.at_stb`). -/
theorem stbStoresTheByte : Obligations.StbStoresTheByte := by
  refine ⟨fun s hbi => ⟨Memory.write s.rb s.bi s.sr, ?_, Memory.read_write_same _ _ _,
    Memory.read_write_other _ _ _⟩, fun k s => Inv.at_stb⟩
  calc exec .stb s = _ := execStb_of_lt s hbi
    _ = _ := by simp only [State.goto, apply_ite encode]

end Sys2Proof.Machine
end

section
/-! PROOFS of the obligations about the Audio Quantizer (spec/41_audio_quantizer.md): the bits and the range of `quant`
(R100), what LDA (R101) and QNT (R102) do to the state, and what the invariant says where a run executes them. -/

namespace Sys2Proof.Machine

section
variable (c : Cfg) (v : Byte)

/-- `quant` moves each bit down by SHIFT places (R100). -/
theorem quant_getLsbD (q : Nat) : (quant c v).getLsbD q = v.getLsbD (q + c.shift) := by
  rw [quant, BitVec.getLsbD_ushiftRight, Nat.add_comm]

/-- The bits of `quant` above BIT_DEPTH come from above bit 7 of the sample: they are 0 (R100). -/
theorem quant_getLsbD_eq_false (q : Nat) (hq : 8 - c.shift ≤ q) : (quant c v).getLsbD q = false := by
  rw [quant_getLsbD]
  exact BitVec.getLsbD_of_ge v _ (by omega)

/-- A quantized sample fits in BIT_DEPTH bits (R100). -/
theorem quant_toNat_lt (h : c.shift ≤ 7) : (quant c v).toNat < 2 ^ (8 - c.shift) := by
  rw [quant_toNat]
  apply Nat.div_lt_of_lt_mul
  calc v.toNat < 2 ^ 8 := v.isLt
    _ = 2 ^ c.shift * 2 ^ (8 - c.shift) := by rw [← Nat.pow_add, Nat.add_sub_of_le (by omega)]

/-- A shift by 0 is the identity (R100). -/
theorem quant_of_shift_zero (h : c.shift = 0) : quant c v = v := by
  rw [quant, h, BitVec.ushiftRight_zero]

end

section
variable (s : State)

/-- LDA with a byte left: it goes to SMP (R101). -/
theorem execLda_of_lt (h : s.acur < s.env.audio.length) :
    execLda s = .next ({ s with smp := s.env.audio[s.acur], acur := s.acur + 1 }.goto .qnt) := by
  simp only [execLda, audNext_of_lt s h]

/-- LDA at the end of a source that ends in SHORT: the run ends, the chunk is dropped (R101). -/
theorem execLda_of_short (h : s.env.audio.length ≤ s.acur) (hend : s.env.aend = .short) :
    execLda s = .next ({ s with ac := 0 }.terminate .audioExhausted) := by
  simp only [execLda, audNext_of_short s h hend]

/-- LDA at the end of a source that ends in FAIL takes the fault (R101, R140). -/
theorem execLda_of_fail (h : s.env.audio.length ≤ s.acur) (hend : s.env.aend = .fail) :
    execLda s = .next (s.raise .audioDecodeFailure) := by
  simp only [execLda, audNext_of_fail s h hend]

/-- QNT completes wherever AB has the cell (R102). -/
theorem execQnt_of_lt (h : s.ac < chunkLen s.cfg) :
    execQnt s = .next ({ s with ab := Memory.write s.ab s.ac (quant s.cfg s.smp), ac := s.ac + 1 }.goto
      (if s.ac + 1 = chunkLen s.cfg then .wrv else .lda)) := by
  simp only [execQnt, (writeCell_ok_iff _ _ _ _ _ _).2 ⟨h, rfl⟩]

end

section
variable {k : Nat} {s : State}

/-- Where a run executes LDA the chunk is not complete yet (R42 (d)). -/
theorem Inv.ac_lt_at_lda (h : Inv k s) (hph : s.ph = encode .lda) : s.ac < chunkLen s.cfg := by
  obtain ⟨-, -, ⟨hac, -⟩, -⟩ := h.clauses_at .lda hph
  exact hac

/-- Where a run executes QNT the sample has a cell (R42 (d)). -/
theorem Inv.ac_lt_at_qnt (h : Inv k s) (hph : s.ph = encode .qnt) : s.ac < chunkLen s.cfg := by
  obtain ⟨-, -, ⟨hac, -⟩, -⟩ := h.clauses_at .qnt hph
  exact hac

end

/-- Settles O8: `quant` is the division (`quant_toNat`), below 2^BIT_DEPTH, and moves the bits down
(`quant_getLsbD`); the document's test is one computed shift. -/
theorem quantizerDivides : Obligations.QuantizerDivides := by
  refine ⟨fun c v hshift => ⟨quant_toNat c v, ?_, quant_getLsbD_eq_false c v, fun q _ => quant_getLsbD c v q⟩,
    quant_of_shift_zero, fun c hshift => ?_⟩
  · exact Nat.le_sub_one_of_lt (quant_toNat_lt c v hshift)
  · rw [quant, hshift]
    decide

/-- Settles O25: LDA has the three cases of `AudNext`; in a run AC < N, so also N > 0 (`Inv.ac_lt_at_lda`). -/
theorem ldaLoadsOneSample : Obligations.LdaLoadsOneSample := by
  refine ⟨execLda_of_lt, execLda_of_short, execLda_of_fail, fun k s hinv hph => ?_⟩
  have hac : s.ac < chunkLen s.cfg := hinv.ac_lt_at_lda hph
  exact ⟨Nat.zero_lt_of_lt hac, hac⟩

/-- Settles O27: AB has the cell, so QNT completes (`execQnt_of_lt`) and the write is read back at its own cell only;
in a run the cell exists by the invariant (`Inv.ac_lt_at_qnt`). -/
theorem qntStoresTheQuantizedSample : Obligations.QntStoresTheQuantizedSample := by
  refine ⟨fun s hac => ⟨Memory.write s.ab s.ac (quant s.cfg s.smp), ?_, Memory.read_write_same _ _ _,
    Memory.read_write_other _ _ _⟩, fun k s => Inv.ac_lt_at_qnt⟩
  calc exec .qnt s = _ := execQnt_of_lt s hac
    _ = _ := by simp only [State.goto, apply_ite encode]

end Sys2Proof.Machine
end

section
/-! PROOFS of the obligations about the Stream Multiplexer (spec/42_multiplexer.md): what each of its operations does to
the state (R107 to R112), the final phases (R113, R114), and the transition table (R119). -/

namespace Sys2Proof.Machine

section
variable (s : State)

/-- IDLE with start = 1 begins the run (R107). -/
theorem execIdle_of_start (h : s.pins.start = true) :
    execIdle s = .next ({ s with status := s.status.begin, isOpen := true }.goto .fetch) :=
  if_pos h

/-- IDLE with start = 0 waits (R107). -/
theorem execIdle_of_not_start (h : s.pins.start = false) : execIdle s = .next (s.goto .idle) :=
  if_neg (by simp [h])

/-- Going to the phase a state is in changes nothing. -/
theorem State.goto_of_ph (i : Instr) (h : s.ph = encode i) : s.goto i = s := by
  rw [State.goto, ← h]

/-- FETCH with a frame left loads it (R108). -/
theorem execFetch_of_lt (h : s.vcur < s.env.frames.length) (hc : cancelAt s.env s.poll = false) :
    execFetch s =
      .next (({ s with poll := s.poll + 1, vcur := s.vcur + 1 }.loadFrame s.env.frames[s.vcur]).goto .shift) := by
  have hanswer := vidNext_of_lt { s with poll := s.poll + 1 } h
  simp only [execFetch, cancelPoll, hc, Bool.false_eq_true, if_false, hanswer]

/-- FETCH with cancel = 1 ends the run without asking the source (R108, R143). -/
theorem execFetch_of_cancel (hc : cancelAt s.env s.poll = true) :
    execFetch s = .next ({ s with poll := s.poll + 1 }.terminate .cancelled) := by
  simp only [execFetch, cancelPoll, hc, if_true]

/-- FETCH at the end of a source that ends in EOS ends the run (R108, R141). -/
theorem execFetch_of_eos (hc : cancelAt s.env s.poll = false) (h : s.env.frames.length ≤ s.vcur)
    (hend : s.env.vend = .eos) : execFetch s = .next ({ s with poll := s.poll + 1 }.terminate .videoExhausted) := by
  have hanswer := vidNext_of_eos { s with poll := s.poll + 1 } h hend
  simp only [execFetch, cancelPoll, hc, Bool.false_eq_true, if_false, hanswer]

/-- FETCH at the end of a source that ends in FAIL takes the fault (R108, R139). -/
theorem execFetch_of_fail (hc : cancelAt s.env s.poll = false) (h : s.env.frames.length ≤ s.vcur)
    (hend : s.env.vend = .fail) : execFetch s = .next ({ s with poll := s.poll + 1 }.raise .videoDecodeFailure) := by
  have hanswer := vidNext_of_fail { s with poll := s.poll + 1 } h hend
  simp only [execFetch, cancelPoll, hc, Bool.false_eq_true, if_false, hanswer]

/-- WRV completes wherever the cell of RB holds a value and the output is open (R109). -/
theorem execWrv_of_cell (v : Byte) (hoc : s.oc < videoSize s.cfg) (hv : Memory.read s.rb s.oc = some v)
    (hopen : s.isOpen = true) :
    execWrv s = .next ({ s with out := s.out ++ [v],
                                oc := if s.oc + 1 = videoSize s.cfg then 0 else s.oc + 1 }.goto
      (if s.oc + 1 = videoSize s.cfg then (if chunkLen s.cfg = 0 then .nxt else .wra) else .wrv)) := by
  simp only [execWrv, (readCell_ok_iff _ _ _ _ _).2 ⟨hoc, hv⟩, outWrite_of_isOpen s v hopen]
  split
  · rfl
  · rfl

/-- WRA completes wherever the cell of AB holds a value and the output is open (R110). -/
theorem execWra_of_cell (v : Byte) (hoc : s.oc < chunkLen s.cfg) (hv : Memory.read s.ab s.oc = some v)
    (hopen : s.isOpen = true) :
    execWra s = .next ({ s with out := s.out ++ [v],
                                oc := if s.oc + 1 = chunkLen s.cfg then 0 else s.oc + 1 }.goto
      (if s.oc + 1 = chunkLen s.cfg then .nxt else .wra)) := by
  simp only [execWra, (readCell_ok_iff _ _ _ _ _).2 ⟨hoc, hv⟩, outWrite_of_isOpen s v hopen]
  split
  · rfl
  · rfl

end

/-! The rows of the transition table (R119), operation by operation: the phase each leads to. -/

/-- Where FETCH goes on each answer of the video source (R108). -/
def phaseAfterVideo : VideoAnswer → Instr
  | .frame _ => .shift
  | .eos => .hlt
  | .fail => .errPhase

/-- Where LDA goes on each answer of the audio source (R101). -/
def phaseAfterAudio : AudioAnswer → Instr
  | .byte _ => .qnt
  | .short => .hlt
  | .fail => .errPhase

section
variable {s t : State}

theorem execIdle_ph (h : execIdle s = .next t) :
    t.ph = if s.pins.start = true then encode .fetch else encode .idle := by
  obtain ⟨hstart, rfl⟩ | ⟨hstart, rfl⟩ := execIdle_next h
  · simp [hstart]
  · simp [hstart]

theorem execFetch_ph_of_cancel (hc : cancelAt s.env s.poll = true) (h : execFetch s = .next t) :
    t.ph = encode .hlt := by
  cases (execFetch_of_cancel s hc).symm.trans h
  rfl

theorem execFetch_ph_of_answer {a : VideoAnswer} (hc : cancelAt s.env s.poll = false) (ha : videoAnswer s = a)
    (h : execFetch s = .next t) : t.ph = encode (phaseAfterVideo a) := by
  subst ha
  obtain ⟨b, hb, hanswer⟩ | ⟨hl, hend, hanswer⟩ | ⟨hl, hend, hanswer⟩ := videoAnswer_cases s
  · obtain ⟨hlt, -⟩ := List.getElem?_eq_some_iff.1 hb
    cases (execFetch_of_lt s hlt hc).symm.trans h
    rw [hanswer]
    rfl
  · cases (execFetch_of_eos s hc hl hend).symm.trans h
    rw [hanswer]
    rfl
  · cases (execFetch_of_fail s hc hl hend).symm.trans h
    rw [hanswer]
    rfl

theorem execLda_ph_of_answer {a : AudioAnswer} (ha : audioAnswer s = a) (h : execLda s = .next t) :
    t.ph = encode (phaseAfterAudio a) := by
  subst ha
  obtain ⟨v, hv, hanswer⟩ | ⟨hl, hend, hanswer⟩ | ⟨hl, hend, hanswer⟩ := audioAnswer_cases s
  · obtain ⟨hlt, -⟩ := List.getElem?_eq_some_iff.1 hv
    cases (execLda_of_lt s hlt).symm.trans h
    rw [hanswer]
    rfl
  · cases (execLda_of_short s hl hend).symm.trans h
    rw [hanswer]
    rfl
  · cases (execLda_of_fail s hl hend).symm.trans h
    rw [hanswer]
    rfl

theorem execShift_ph (h : execShift s = .next t) :
    t.ph = encode (if t.bc = 8 then .stb else if t.cx = s.cfg.w then .pad else .shift) := by
  obtain ⟨p, -, rfl⟩ := execShift_next h
  rfl

theorem execPad_ph (h : execPad s = .next t) : t.ph = encode (if t.bc = 8 then .stb else .pad) := by
  cases h
  rfl

theorem execStb_ph (h : execStb s = .next t) :
    t.ph = encode (if s.cx = s.cfg.w then (if chunkLen s.cfg = 0 then .wrv else .lda) else .shift) := by
  obtain ⟨-, rfl⟩ := execStb_next h
  rfl

theorem execQnt_ph (h : execQnt s = .next t) : t.ph = encode (if t.ac = chunkLen s.cfg then .wrv else .lda) := by
  obtain ⟨-, rfl⟩ := execQnt_next h
  rfl

theorem execWrv_ph (h : execWrv s = .next t) :
    t.ph = encode (if s.oc + 1 = videoSize s.cfg then (if chunkLen s.cfg = 0 then .nxt else .wra) else .wrv) := by
  obtain ⟨v, -, -, -, ⟨hlast, rfl⟩ | ⟨hmore, rfl⟩⟩ := execWrv_next h
  · rw [if_pos hlast]
    rfl
  · rw [if_neg hmore]
    rfl

theorem execWra_ph (h : execWra s = .next t) :
    t.ph = encode (if s.oc + 1 = chunkLen s.cfg then .nxt else .wra) := by
  obtain ⟨v, -, -, -, ⟨hlast, rfl⟩ | ⟨hmore, rfl⟩⟩ := execWra_next h
  · rw [if_pos hlast]
    rfl
  · rw [if_neg hmore]
    rfl

theorem execNxt_ph (h : execNxt s = .next t) :
    t.ph = encode (if s.dc + 1 = s.cfg.dup then .fetch else if chunkLen s.cfg = 0 then .wrv else .lda) := by
  obtain ⟨hlast, e⟩ | ⟨hmore, e⟩ := execNxt_cases s
  · cases e.symm.trans h
    rw [if_pos hlast]
    rfl
  · cases e.symm.trans h
    rw [if_neg hmore]
    rfl

end

section
variable {i : Instr} {s t : State}

/-- A FETCH goes on to SHIFT, or ends the run with CAUSE = VEND or CANC, or takes its fault (R108). -/
theorem execFetch_ends (h : execFetch s = .next t) :
    t.ph = encode .shift ∨ (t.ph = encode .hlt ∧ (t.status.cause = .vend ∨ t.status.cause = .canc)) ∨
      t = { s with poll := s.poll + 1 }.raise .videoDecodeFailure := by
  obtain ⟨-, e⟩ | ⟨-, b, -, e⟩ | ⟨-, -, -, e⟩ | ⟨-, -, -, e⟩ := execFetch_cases s
  · cases e.symm.trans h
    exact .inr (.inl ⟨rfl, .inr rfl⟩)
  · cases e.symm.trans h
    exact .inl rfl
  · cases e.symm.trans h
    exact .inr (.inl ⟨rfl, .inl rfl⟩)
  · cases e.symm.trans h
    exact .inr (.inr rfl)

/-- An LDA goes on to QNT, or ends the run with CAUSE = AEND, or takes its fault (R101). -/
theorem execLda_ends (h : execLda s = .next t) :
    t.ph = encode .qnt ∨ (t.ph = encode .hlt ∧ t.status.cause = .aend) ∨ t = s.raise .audioDecodeFailure := by
  obtain ⟨v, -, e⟩ | ⟨-, -, e⟩ | ⟨-, -, e⟩ := execLda_cases s
  · cases e.symm.trans h
    exact .inl rfl
  · cases e.symm.trans h
    exact .inr (.inl ⟨rfl, rfl⟩)
  · cases e.symm.trans h
    exact .inr (.inr rfl)

/-- An operation leads to one of the successors its row of the table names (R119). -/
theorem exec_successor (h : exec i s = .next t) : ∃ j ∈ i.successors, t.ph = encode j := by
  cases i with
  | idle =>
    obtain ⟨-, rfl⟩ | ⟨-, rfl⟩ := execIdle_next h
    · exact ⟨.fetch, by decide, rfl⟩
    · exact ⟨.idle, by decide, rfl⟩
  | fetch =>
    obtain hshift | ⟨hhlt, -⟩ | rfl := execFetch_ends h
    · exact ⟨.shift, by decide, hshift⟩
    · exact ⟨.hlt, by decide, hhlt⟩
    · exact ⟨.errPhase, by decide, rfl⟩
  | shift => exact ⟨_, by split_ifs <;> decide, execShift_ph h⟩
  | pad => exact ⟨_, by split_ifs <;> decide, execPad_ph h⟩
  | stb => exact ⟨_, by split_ifs <;> decide, execStb_ph h⟩
  | lda =>
    obtain hqnt | ⟨hhlt, -⟩ | rfl := execLda_ends h
    · exact ⟨.qnt, by decide, hqnt⟩
    · exact ⟨.hlt, by decide, hhlt⟩
    · exact ⟨.errPhase, by decide, rfl⟩
  | qnt => exact ⟨_, by split_ifs <;> decide, execQnt_ph h⟩
  | wrv => exact ⟨_, by split_ifs <;> decide, execWrv_ph h⟩
  | wra => exact ⟨_, by split_ifs <;> decide, execWra_ph h⟩
  | nxt => exact ⟨_, by split_ifs <;> decide, execNxt_ph h⟩
  | hlt =>
    cases h
    exact ⟨.endPhase, by decide, rfl⟩
  | endPhase => cases h
  | errPhase => cases h

/-- An operation that leads to `j` has `j` in its row of the table (R119). -/
theorem mem_successors_of_exec (j : Instr) (h : exec i s = .next t) (hph : t.ph = encode j) : j ∈ i.successors := by
  obtain ⟨j', hj', hph'⟩ := exec_successor h
  rwa [encode_injective (hph.symm.trans hph')]

/-- IDLE stands in its own row only (R119). -/
theorem eq_idle_of_mem_successors (h : .idle ∈ i.successors) : i = .idle := by
  revert h
  cases i <;> decide

/-- HLT stands in the rows of FETCH and LDA only (R119). -/
theorem eq_fetch_or_lda_of_hlt_mem (h : .hlt ∈ i.successors) : i = .fetch ∨ i = .lda := by
  revert h
  cases i <;> decide

/-- ERR stands in the rows of FETCH and LDA only (R119). -/
theorem eq_fetch_or_lda_of_errPhase_mem (h : .errPhase ∈ i.successors) : i = .fetch ∨ i = .lda := by
  revert h
  cases i <;> decide

/-- HLT is reached from FETCH with CAUSE = VEND or CANC, and from LDA with CAUSE = AEND (R112). -/
theorem exec_to_hlt (h : exec i s = .next t) (hph : t.ph = encode .hlt) :
    (i = .fetch ∧ (t.status.cause = .vend ∨ t.status.cause = .canc)) ∨ (i = .lda ∧ t.status.cause = .aend) := by
  obtain rfl | rfl := eq_fetch_or_lda_of_hlt_mem (mem_successors_of_exec .hlt h hph)
  · obtain hshift | ⟨-, hcause⟩ | rfl := execFetch_ends h
    · simp [hshift] at hph
    · exact .inl ⟨rfl, hcause⟩
    · simp at hph
  · obtain hqnt | ⟨-, hcause⟩ | rfl := execLda_ends h
    · simp [hqnt] at hph
    · exact .inr ⟨rfl, hcause⟩
    · simp at hph

/-- ERR is reached by fault entry only (R114). -/
theorem exec_to_errPhase (h : exec i s = .next t) (hph : t.ph = encode .errPhase) :
    (i = .fetch ∧ t = { s with poll := s.poll + 1 }.raise .videoDecodeFailure) ∨
      (i = .lda ∧ t = s.raise .audioDecodeFailure) := by
  obtain rfl | rfl := eq_fetch_or_lda_of_errPhase_mem (mem_successors_of_exec .errPhase h hph)
  · obtain hshift | ⟨hhlt, -⟩ | hfault := execFetch_ends h
    · simp [hshift] at hph
    · simp [hhlt] at hph
    · exact .inl ⟨rfl, hfault⟩
  · obtain hqnt | ⟨hhlt, -⟩ | hfault := execLda_ends h
    · simp [hqnt] at hph
    · simp [hhlt] at hph
    · exact .inr ⟨rfl, hfault⟩

/-- IDLE is reached from IDLE with start = 0 only (R107). -/
theorem exec_to_idle (h : exec i s = .next t) (hph : t.ph = encode .idle) : i = .idle ∧ s.pins.start = false := by
  obtain rfl := eq_idle_of_mem_successors (mem_successors_of_exec .idle h hph)
  obtain ⟨-, rfl⟩ | ⟨hstart, -⟩ := execIdle_next h
  · simp at hph
  · exact ⟨rfl, hstart⟩

/-- Only FETCH ends a run with a cause of the video source or the operator (R108). -/
theorem eq_fetch_of_video_cause (h : exec i s = .next t) (hph : t.ph = encode .hlt ∨ t.ph = encode .errPhase)
    (hcause : t.status.cause = .vend ∨ t.status.cause = .canc ∨ t.status.cause = .vfail) : i = .fetch := by
  obtain hhlt | herr := hph
  · obtain ⟨hi, -⟩ | ⟨-, haend⟩ := exec_to_hlt h hhlt
    · exact hi
    · simp [haend] at hcause
  · obtain ⟨hi, -⟩ | ⟨-, rfl⟩ := exec_to_errPhase h herr
    · exact hi
    · simp [State.raise, Status.fail, FaultEvent.cause] at hcause

end

section
variable {s t : State}

/-- A step without reset executes the operation PH names (R18). -/
theorem exec_of_step (i : Instr) (hph : s.ph = encode i) (hreset : s.pins.reset = false) (h : step s = .next t) :
    exec i s = .next t := by
  obtain ⟨-, -, j, hj, ⟨hr, -⟩ | ⟨-, hx⟩⟩ := step_next h
  · cases hreset.symm.trans hr
  · rwa [encode_injective (hph.symm.trans hj)]

/-- A step under reset leads to the reset state (R158). -/
theorem eq_resetNow_of_step (hreset : s.pins.reset = true) (h : step s = .next t) : t = s.resetNow := by
  obtain ⟨-, -, i, -, ⟨-, ht⟩ | ⟨hr, -⟩⟩ := step_next h
  · exact ht
  · cases hreset.symm.trans hr

/-- A final phase has no step but reset (R113, R114). -/
theorem RunOver.step_ne_next (h : RunOver s) (hreset : s.pins.reset = false) (t : State) : step s ≠ .next t := by
  intro hstep
  obtain hend | herr := h
  · cases exec_of_step .endPhase hend hreset hstep
  · cases exec_of_step .errPhase herr hreset hstep

/-- Reset leads out of a final phase (R158). -/
theorem RunOver.step_of_reset (h : RunOver s) (hv : s.cfg.valid = true) (hc : s.env.conforms s.cfg = true)
    (hreset : s.pins.reset = true) : step s = .next s.resetNow := by
  obtain hend | herr := h
  · exact (step_of .endPhase hv hc hend).trans (if_pos hreset)
  · exact (step_of .errPhase hv hc herr).trans (if_pos hreset)

end

/-- A fault's cause is VFAIL or AFAIL (R138). -/
theorem Cause.eq_of_isFault {x : Cause} (h : x.isFault = true) : x = .vfail ∨ x = .afail := by
  revert h
  cases x <;> decide

section
variable {k : Nat} {s : State}

/-- The stream invariant of a state whose phase is known (compare `Inv.clauses_at`). -/
theorem StreamInv.clauses_at (i : Instr) (h : StreamInv k s) (hph : s.ph = encode i) :
    ProgressInv k i s ∧ s.out = stream s.cfg s.env k ++ (srec s.cfg s.env k).take (partialLength i s) := by
  obtain ⟨j, hj, hclauses⟩ := h
  obtain rfl : j = i := encode_injective (hj.symm.trans hph)
  exact hclauses

/-- Every counter is 0 where a run waits for its start (R107). -/
theorem Inv.at_idle (h : Inv k s) (hph : s.ph = encode .idle) :
    s.cx = 0 ∧ s.ry = 0 ∧ s.bc = 0 ∧ s.bi = 0 ∧ s.ac = 0 ∧ s.oc = 0 ∧ s.dc = 0 ∧ s.rc = 0 := by
  obtain ⟨⟨-, -, -, -, hrc, -⟩, ⟨hcx, hry, -, hbc, hbi, hdc⟩, ⟨hac, -⟩, ⟨-, -, -, hoc⟩, -, -, rfl⟩ :=
    h.clauses_at .idle hph
  exact ⟨hcx, hry, hbc, hbi, hac, hoc (by decide) (by decide), hdc, hrc⟩

/-- A packed record has a value in each cell of RB (R42 (c), R96). -/
theorem Packed.read_rb (h : Packed s) (j : Nat) (hj : j < videoSize s.cfg) :
    ∃ v, Memory.read s.rb j = some v := by
  obtain ⟨b, -, hrecord, -, -, -, -, hbi⟩ := h
  exact ⟨_, hrecord j (hj.trans_eq hbi.symm)⟩

/-- Where a run executes WRV it completes: the record is packed and the output is open (R42 (c), (e)). -/
theorem Inv.at_wrv (h : Inv k s) (hph : s.ph = encode .wrv) :
    s.oc < videoSize s.cfg ∧ s.isOpen = true ∧ ∃ v, Memory.read s.rb s.oc = some v := by
  obtain ⟨-, hpacked, -, ⟨-, hoc, -⟩, ⟨-, hopen⟩⟩ := h.clauses_at .wrv hph
  exact ⟨hoc rfl, hopen, hpacked.read_rb s.oc (hoc rfl)⟩

/-- Where a run executes WRA it completes: the chunk is staged and the output is open (R42 (d), (e)). -/
theorem Inv.at_wra (h : Inv k s) (hph : s.ph = encode .wra) :
    0 < chunkLen s.cfg ∧ s.oc < chunkLen s.cfg ∧ s.isOpen = true ∧ ∃ v, Memory.read s.ab s.oc = some v := by
  obtain ⟨-, -, ⟨hac, -, hstaged⟩, ⟨-, -, hwra, -⟩, ⟨-, hopen⟩⟩ := h.clauses_at .wra hph
  have hoc : s.oc < chunkLen s.cfg := hwra rfl
  exact ⟨Nat.zero_lt_of_lt hoc, hoc, hopen, Option.isSome_iff_exists.1 (hstaged s.oc (hoc.trans_eq hac.symm))⟩

/-- DC counts the records of the frame, below DUP (R42 (f)). -/
theorem Inv.dc_lt (h : Inv k s) : s.dc < s.cfg.dup := by
  obtain ⟨-, -, ⟨-, -, -, hdc, -⟩, -⟩ := h
  exact hdc

/-- Where a run executes NXT the record just written is wholly in OUT (R42 (g)). -/
theorem Inv.out_length_at_nxt (h : Inv k s) (hph : s.ph = encode .nxt) :
    s.out.length = (k + 1) * recordSize s.cfg := by
  obtain ⟨-, -, -, ⟨hlen, -⟩, -⟩ := h.clauses_at .nxt hph
  rw [Nat.succ_mul]
  exact hlen

/-- Where a run executes FETCH, OUT holds whole records (R42 (g)). -/
theorem Inv.out_length_at_fetch (h : Inv k s) (hph : s.ph = encode .fetch) :
    s.out.length = k * recordSize s.cfg := by
  obtain ⟨-, -, -, ⟨hlen, -⟩, -⟩ := h.clauses_at .fetch hph
  exact hlen

/-- FETCH stands at a frame boundary: the records of the frames delivered so far are out, and nothing else (R108). -/
theorem StreamInv.at_fetch (h : StreamInv k s) (hph : s.ph = encode .fetch) :
    k = s.cfg.dup * s.vcur ∧ s.dc = 0 ∧ s.out = stream s.cfg s.env k := by
  obtain ⟨⟨hk, -, hdc, -⟩, hout⟩ := h.clauses_at .fetch hph
  exact ⟨hk, hdc, hout.trans (List.append_nil _)⟩

/-- STATUS and OPEN where a run has ended normally (R113). -/
theorem Inv.at_endPhase (h : Inv k s) (hph : s.ph = encode .endPhase) :
    s.status.done = true ∧ s.isOpen = false := by
  obtain ⟨-, -, -, -, hstatus, -, hopen⟩ := h.clauses_at .endPhase hph
  exact ⟨congrArg Status.done hstatus, hopen⟩

/-- STATUS and OPEN where a fault has ended a run (R114). -/
theorem Inv.at_errPhase (h : Inv k s) (hph : s.ph = encode .errPhase) :
    s.status.errf = true ∧ s.isOpen = false ∧ (s.status.cause = .vfail ∨ s.status.cause = .afail) := by
  obtain ⟨-, -, -, -, hstatus, hfault, hopen⟩ := h.clauses_at .errPhase hph
  exact ⟨congrArg Status.errf hstatus, hopen, Cause.eq_of_isFault hfault⟩

/-- In a run the setup conforms (R11, R170). -/
theorem Inv.setup (h : Inv k s) : s.cfg.valid = true ∧ s.env.conforms s.cfg = true := by
  obtain ⟨-, -, ⟨hv, hc, -⟩, -⟩ := h
  exact ⟨hv, hc⟩

/-- In a run at most 7 bits are in SR where SHIFT is executed (R42 (b)). -/
theorem Inv.bc_le_at_shift (h : Inv k s) (hph : s.ph = encode .shift) : s.bc ≤ 7 := by
  obtain ⟨-, ⟨b, -, -, -, -, -, hbc, -⟩, -⟩ := h.clauses_at .shift hph
  exact hbc

/-- In a run at most 7 bits are in SR where PAD is executed (R42 (b)). -/
theorem Inv.bc_le_at_pad (h : Inv k s) (hph : s.ph = encode .pad) : s.bc ≤ 7 := by
  obtain ⟨-, ⟨b, -, -, -, -, -, -, hbc, -⟩, -⟩ := h.clauses_at .pad hph
  exact hbc

/-- In a run the column counter is at most W where STB is executed (R42 (a)). -/
theorem Inv.cx_le_at_stb (h : Inv k s) (hph : s.ph = encode .stb) : s.cx ≤ s.cfg.w := by
  obtain ⟨-, ⟨b, -, -, -, -, ⟨hcx, -⟩ | ⟨hcx, -⟩⟩, -⟩ := h.clauses_at .stb hph
  · exact hcx.le
  · exact hcx.le

/-- In a run every operation completes (R42, R43). -/
theorem Inv.exists_exec (i : Instr) (h : Inv k s) (hph : s.ph = encode i) (hend : i ≠ .endPhase)
    (herr : i ≠ .errPhase) : ∃ t, exec i s = .next t := by
  cases i with
  | idle =>
    cases hstart : s.pins.start with
    | true => exact ⟨_, execIdle_of_start s hstart⟩
    | false => exact ⟨_, execIdle_of_not_start s hstart⟩
  | fetch => exact ⟨_, rfl⟩
  | shift =>
    obtain ⟨⟨b, hfb, hfits⟩, hry, hcx, -⟩ := h.at_shift hph
    exact ⟨_, shiftMovesOnePixelIn.1 s b hfb hfits hry hcx⟩
  | pad => exact ⟨_, execPad_eq s⟩
  | stb =>
    obtain ⟨-, hbi, -⟩ := h.at_stb hph
    exact ⟨_, execStb_of_lt s hbi⟩
  | lda =>
    obtain ⟨v, -, e⟩ | ⟨-, -, e⟩ | ⟨-, -, e⟩ := execLda_cases s
    · exact ⟨_, e⟩
    · exact ⟨_, e⟩
    · exact ⟨_, e⟩
  | qnt => exact ⟨_, execQnt_of_lt s (h.ac_lt_at_qnt hph)⟩
  | wrv =>
    obtain ⟨hoc, hopen, v, hv⟩ := h.at_wrv hph
    exact ⟨_, execWrv_of_cell s v hoc hv hopen⟩
  | wra =>
    obtain ⟨-, hoc, hopen, v, hv⟩ := h.at_wra hph
    exact ⟨_, execWra_of_cell s v hoc hv hopen⟩
  | nxt =>
    obtain ⟨-, e⟩ | ⟨-, e⟩ := execNxt_cases s
    · exact ⟨_, e⟩
    · exact ⟨_, e⟩
  | hlt => exact ⟨_, execHlt_eq s⟩
  | endPhase => exact absurd rfl hend
  | errPhase => exact absurd rfl herr

/-- In a run that is not over there is a step (R119). -/
theorem Inv.exists_step (h : Inv k s) (hreset : s.pins.reset = false) (hover : ¬ RunOver s) :
    ∃ t, step s = .next t := by
  have ⟨i, hph, _⟩ := h
  obtain ⟨hend, herr⟩ := not_or.1 hover
  obtain ⟨t, hx⟩ := h.exists_exec i hph (fun hi => hend (hi ▸ hph)) (fun hi => herr (hi ▸ hph))
  obtain ⟨hv, hc⟩ := h.setup
  refine ⟨t, (step_of i hv hc hph).trans ?_⟩
  simp [hreset, hx]

/-- After a SHIFT of a run one of its three rows applies: BC is at most 8 and CX at most W (R119). -/
theorem Inv.shift_row {t : State} (h : Inv k s) (hph : s.ph = encode .shift) (hx : execShift s = .next t) :
    t.bc = 8 ∨ (t.bc < 8 ∧ (t.cx = s.cfg.w ∨ t.cx < s.cfg.w)) := by
  have hbc : s.bc ≤ 7 := h.bc_le_at_shift hph
  obtain ⟨-, -, hcx, -⟩ := h.at_shift hph
  obtain ⟨p, -, rfl⟩ := execShift_next hx
  have hcol := advancePixel_column s.cfg s.cx s.ry hcx
  simp only [State.goto_bc, State.goto_cx]
  omega

/-- After a PAD of a run one of its two rows applies (R119). -/
theorem Inv.pad_row {t : State} (h : Inv k s) (hph : s.ph = encode .pad) (hx : execPad s = .next t) :
    t.bc = 8 ∨ t.bc < 8 := by
  have hbc : s.bc ≤ 7 := h.bc_le_at_pad hph
  cases hx
  simp only [State.goto_bc]
  omega

end

/-- After a QNT one of its two rows applies (R119). -/
theorem execQnt_row {s t : State} (hx : execQnt s = .next t) : t.ac < chunkLen s.cfg ∨ t.ac = chunkLen s.cfg := by
  obtain ⟨hac, rfl⟩ := execQnt_next hx
  exact Nat.lt_or_eq_of_le hac

/-- Settles O28: IDLE has the two cases of start, its phase is a successor of no other operation (`exec_to_idle`), and
its counters are the invariant's (`Inv.at_idle`). -/
theorem idleWaitsForStart : Obligations.IdleWaitsForStart := by
  refine ⟨execIdle_of_start, execIdle_of_not_start, fun s hph hstart => ?_, fun i s t => exec_to_idle,
    fun k s => Inv.at_idle⟩
  calc exec .idle s = .next (s.goto .idle) := execIdle_of_not_start s hstart
    _ = .next s := by rw [State.goto_of_ph s .idle hph]

/-- Settles O29: FETCH has the four cases of the cancel input and `VidNext`; only it ends a run for those causes
(`eq_fetch_of_video_cause`); in a run it stands at a frame boundary (`StreamInv.at_fetch`). -/
theorem fetchPollsThenGetsTheFrame : Obligations.FetchPollsThenGetsTheFrame :=
  ⟨execFetch_of_cancel, execFetch_of_lt, execFetch_of_eos, execFetch_of_fail, fun _ _ _ => eq_fetch_of_video_cause,
    fun _ _ => Inv.out_length_at_fetch, fun _ _ _ => StreamInv.at_fetch⟩

/-- Settles O31: with its conditions WRV completes (`execWrv_of_cell`), and in a run they hold (`Inv.at_wrv`). -/
theorem wrvWritesOneVideoByte : Obligations.WrvWritesOneVideoByte := by
  refine ⟨fun s v hoc hv hopen => ?_, fun k s => Inv.at_wrv⟩
  calc exec .wrv s = _ := execWrv_of_cell s v hoc hv hopen
    _ = _ := by simp only [State.goto, apply_ite encode]

/-- Settles O32: with its conditions WRA completes (`execWra_of_cell`), and in a run they hold (`Inv.at_wra`). -/
theorem wraWritesOneAudioByte : Obligations.WraWritesOneAudioByte := by
  refine ⟨fun s v hoc hv hopen => ?_, fun k s => Inv.at_wra⟩
  calc exec .wra s = _ := execWra_of_cell s v hoc hv hopen
    _ = _ := by simp only [State.goto, apply_ite encode]

/-- Settles O33: NXT has the two cases of DC + 1 = DUP; in a run the record is out, and DUP = 1 leaves DC no value but 0
(`Inv.dc_lt`). -/
theorem nxtCountsTheRecord : Obligations.NxtCountsTheRecord := by
  refine ⟨fun s hlast => if_pos hlast, fun s hmore => ?_, fun s => BitVec.toNat_add s.rc 1, fun k s hinv hph => ?_⟩
  · calc exec .nxt s = _ := if_neg hmore
      _ = _ := by simp only [State.goto, apply_ite encode]
  · have hdc : s.dc < s.cfg.dup := hinv.dc_lt
    exact ⟨hinv.out_length_at_nxt hph, fun hdup => by omega⟩

/-- Settles O36: without reset a step would execute END or ERR (`RunOver.step_ne_next`); STATUS and OPEN are the
invariant's; ERR is reached by fault entry only (`exec_to_errPhase`). -/
theorem finalPhasesHaveNoStep : Obligations.FinalPhasesHaveNoStep :=
  ⟨fun _ => RunOver.step_ne_next,
    fun _ hv hc hover hreset => ⟨_, hover.step_of_reset hv hc hreset, rfl⟩,
    fun _ _ => Inv.at_endPhase, fun _ _ => Inv.at_errPhase, fun _ _ _ => exec_to_errPhase⟩

/-- Settles O38: a step executes the operation PH names, which leads to a successor (`exec_successor`), the one of the
phase equations above; in a run it completes (`Inv.exists_step`) and the counters are in the range the rows cover. -/
theorem transitionTable : Obligations.TransitionTable := by
  refine ⟨fun s t hstep hreset => ?_, fun i s t hph hreset hstep => ?_, fun k s hinv hreset hover => ?_⟩
  · rw [eq_resetNow_of_step hreset hstep]
    rfl
  · have hx : exec i s = .next t := exec_of_step i hph hreset hstep
    refine ⟨exec_successor hx, ?_⟩
    cases i with
    | idle => exact execIdle_ph hx
    | fetch =>
      exact ⟨fun hc => execFetch_ph_of_cancel hc hx, fun hc b hb => execFetch_ph_of_answer hc hb hx,
        fun hc heos => execFetch_ph_of_answer hc heos hx, fun hc hfail => execFetch_ph_of_answer hc hfail hx⟩
    | shift =>
      rw [execShift_ph hx]
      exact ⟨fun h8 => by rw [if_pos h8], fun hlt hcx => by rw [if_neg hlt.ne, if_pos hcx],
        fun hlt hcx => by rw [if_neg hlt.ne, if_neg hcx.ne]⟩
    | pad =>
      rw [execPad_ph hx]
      exact ⟨fun h8 => by rw [if_pos h8], fun hlt => by rw [if_neg hlt.ne]⟩
    | stb =>
      rw [execStb_ph hx]
      exact ⟨fun hcx => by rw [if_neg hcx.ne], fun hcx hn => by rw [if_pos hcx, if_neg hn.ne'],
        fun hcx hn => by rw [if_pos hcx, if_pos hn]⟩
    | lda =>
      exact ⟨fun v hv => execLda_ph_of_answer hv hx, fun hshort => execLda_ph_of_answer hshort hx,
        fun hfail => execLda_ph_of_answer hfail hx⟩
    | qnt =>
      rw [execQnt_ph hx]
      exact ⟨fun hac => by rw [if_neg hac.ne], fun hac => by rw [if_pos hac]⟩
    | wrv =>
      rw [execWrv_ph hx]
      exact ⟨fun hoc => by rw [if_neg hoc.ne], fun hoc hn => by rw [if_pos hoc, if_neg hn.ne'],
        fun hoc hn => by rw [if_pos hoc, if_pos hn]⟩
    | wra =>
      rw [execWra_ph hx]
      exact ⟨fun hoc => by rw [if_neg hoc.ne], fun hoc => by rw [if_pos hoc]⟩
    | nxt =>
      rw [execNxt_ph hx]
      exact ⟨fun hdc => by rw [if_pos hdc], fun hdc hn => by rw [if_neg hdc.ne, if_neg hn.ne'],
        fun hdc hn => by rw [if_neg hdc.ne, if_pos hn]⟩
    | hlt =>
      cases hx
      rfl
    | endPhase => cases hx
    | errPhase => cases hx
  · obtain ⟨t, hstep⟩ := hinv.exists_step hreset hover
    have hx (i : Instr) (hph : s.ph = encode i) : exec i s = .next t := exec_of_step i hph hreset hstep
    refine ⟨t, hstep, fun hph => hinv.shift_row hph (hx .shift hph), fun hph => hinv.pad_row hph (hx .pad hph),
      fun hph => Nat.lt_or_eq_of_le (hinv.cx_le_at_stb hph), fun hph => execQnt_row (hx .qnt hph), fun hph => ?_,
      fun hph => ?_, fun hph => (Nat.lt_or_eq_of_le hinv.dc_lt).symm⟩
    · obtain ⟨hoc, -⟩ := hinv.at_wrv hph
      exact Nat.lt_or_eq_of_le hoc
    · obtain ⟨-, hoc, -⟩ := hinv.at_wra hph
      exact Nat.lt_or_eq_of_le hoc

/-- Settles O34: HLT is one equation, and what leads to it is `exec_to_hlt`. -/
theorem hltClosesTheOutput : Obligations.HltClosesTheOutput :=
  ⟨execHlt_eq, fun _ _ _ => exec_to_hlt⟩

end Sys2Proof.Machine
end

section
/-! PROOFS of what every step keeps (spec/10_state.md section 7): the setup (spec/00_scope.md R12), and, operation by
operation, the invariant of R42. -/

namespace Sys2Proof.Machine

section
variable {i : Instr} {s t : State}

/-- No operation writes the configuration, the sources or the input levels (R12, R34, R35). -/
theorem exec_keeps_setup (h : exec i s = .next t) : t.cfg = s.cfg ∧ t.env = s.env ∧ t.pins = s.pins := by
  cases i with
  | idle =>
    obtain ⟨-, rfl⟩ | ⟨-, rfl⟩ := execIdle_next h
    all_goals exact ⟨rfl, rfl, rfl⟩
  | fetch =>
    obtain ⟨-, e⟩ | ⟨-, b, -, e⟩ | ⟨-, -, -, e⟩ | ⟨-, -, -, e⟩ := execFetch_cases s
    all_goals
      cases e.symm.trans h
      exact ⟨rfl, rfl, rfl⟩
  | shift =>
    obtain ⟨p, -, rfl⟩ := execShift_next h
    exact ⟨rfl, rfl, rfl⟩
  | pad =>
    cases h
    exact ⟨rfl, rfl, rfl⟩
  | stb =>
    obtain ⟨-, rfl⟩ := execStb_next h
    exact ⟨rfl, rfl, rfl⟩
  | lda =>
    obtain ⟨v, -, e⟩ | ⟨-, -, e⟩ | ⟨-, -, e⟩ := execLda_cases s
    all_goals
      cases e.symm.trans h
      exact ⟨rfl, rfl, rfl⟩
  | qnt =>
    obtain ⟨-, rfl⟩ := execQnt_next h
    exact ⟨rfl, rfl, rfl⟩
  | wrv =>
    obtain ⟨v, -, -, -, ⟨-, rfl⟩ | ⟨-, rfl⟩⟩ := execWrv_next h
    all_goals exact ⟨rfl, rfl, rfl⟩
  | wra =>
    obtain ⟨v, -, -, -, ⟨-, rfl⟩ | ⟨-, rfl⟩⟩ := execWra_next h
    all_goals exact ⟨rfl, rfl, rfl⟩
  | nxt =>
    obtain ⟨-, e⟩ | ⟨-, e⟩ := execNxt_cases s
    all_goals
      cases e.symm.trans h
      exact ⟨rfl, rfl, rfl⟩
  | hlt =>
    cases h
    exact ⟨rfl, rfl, rfl⟩
  | endPhase => cases h
  | errPhase => cases h

/-- A step leaves the setup as it is, under reset too (R12, R34, R35). -/
theorem step_keeps_setup (h : step s = .next t) : t.cfg = s.cfg ∧ t.env = s.env ∧ t.pins = s.pins := by
  obtain ⟨-, -, i, -, ⟨-, rfl⟩ | ⟨-, hx⟩⟩ := step_next h
  · exact ⟨rfl, rfl, rfl⟩
  · exact exec_keeps_setup hx

end

/-- A write to a cell of a buffer keeps its form and its size (R25, R28). -/
theorem BufferInv.write {size : Nat} {m : Memory} (h : BufferInv size m) (j : Nat) (v : Byte) (hj : j < size) :
    BufferInv size (Memory.write m j v) :=
  ⟨Memory.wf_write m j v h.1, fun a ha => (Memory.read_write_other m j v a (by omega)).trans (h.2 a ha)⟩

section
variable {s t : State} {b : Bitmap}

/-- Shifting the next bit of the traversal in makes SR hold one bit more (R93, R94, R98). -/
theorem ShiftHolds.next_bit (h : ShiftHolds s b) (hbc : s.bc ≤ 7) {q : Bool}
    (hq : q = packBit s.cfg b (8 * s.bi + s.bc)) (hcfg : t.cfg = s.cfg) (hbi : t.bi = s.bi) (hbc' : t.bc = s.bc + 1)
    (hsr : t.sr = shiftIn s.sr q) : ShiftHolds t b := by
  obtain ⟨hlt, hbit⟩ := h
  rw [ShiftHolds, hcfg, hbi, hbc', hsr]
  constructor
  · have hb : q.toNat ≤ 1 := Bool.toNat_le q
    rw [shiftIn_toNat, Nat.pow_succ]
    exact (Nat.mod_le _ _).trans_lt (by omega)
  · intro u hu
    obtain rfl | hu : u = s.bc ∨ u < s.bc := by omega
    · rw [Nat.add_sub_cancel, Nat.sub_self, shiftIn_bit_zero, hq]
    · have hplace : s.bc + 1 - 1 - u = s.bc - 1 - u + 1 := by omega
      rw [hplace, shiftIn_bit_succ s.sr q _ (by omega), hbit u hu]

/-- A full shift register is the record's next byte (R95, R96). -/
theorem ShiftHolds.sr_eq_packByte (h : ShiftHolds s b) (hbc : s.bc = 8) : s.sr = packByte s.cfg b s.bi := by
  obtain ⟨-, hbit⟩ := h
  apply BitVec.eq_of_getLsbD_eq
  intro q hq
  have hq7 : 7 - (7 - q) = q := by omega
  have hsr : s.sr.getLsbD (7 - (7 - q)) = packBit s.cfg b (8 * s.bi + (7 - q)) := by
    simpa only [hbc] using hbit (7 - q) (by omega)
  rw [hq7] at hsr
  rw [hsr, ← packByte_bit s.cfg b s.bi (7 - q) (by omega), hq7]

/-- A cleared shift register with BC = 0 holds no bit yet (R95). -/
theorem shiftHolds_of_cleared (hbc : s.bc = 0) (hsr : s.sr = 0) : ShiftHolds s b := by
  rw [ShiftHolds, hbc, hsr]
  exact ⟨by decide, fun u hu => absurd hu (Nat.not_lt_zero u)⟩

/-- Storing byte BI lengthens the packed part of the record by one byte (R95, R96). -/
theorem RecordPrefix.write (h : RecordPrefix s b) (hcfg : t.cfg = s.cfg) (hbi : t.bi = s.bi + 1)
    (hrb : t.rb = Memory.write s.rb s.bi (packByte s.cfg b s.bi)) : RecordPrefix t b := by
  intro j hj
  rw [hrb, hcfg, Memory.read_write]
  split
  · next heq => rw [heq]
  · next hne => exact h j (by omega)

/-- Storing cell `n` lengthens the staged part of the chunk by one (R102). -/
theorem ChunkStaged.write {n : Nat} {v : Byte} (h : ChunkStaged s n) (hab : t.ab = Memory.write s.ab n v) :
    ChunkStaged t (n + 1) := by
  intro j hj
  rw [hab, Memory.read_write]
  split
  · rfl
  · next hne => exact h j (by omega)

/-- Nothing need be staged of an empty chunk part. -/
theorem chunkStaged_zero : ChunkStaged s 0 := fun j hj => absurd hj (Nat.not_lt_zero j)

end

/-- The count of records after an operation: NXT adds one (R42 (g)). -/
theorem nextCount_of_phase {k : Nat} {s : State} {i : Instr} (hph : s.ph = encode i) (hreset : s.pins.reset = false) :
    nextCount k s = if i = .nxt then k + 1 else k := by
  simp only [nextCount, hreset, Bool.false_eq_true, if_false, hph, encode_inj]

section
variable {k : Nat} {s t : State}

/-- IDLE keeps the invariant: start = 1 opens the output with nothing written (R107). -/
theorem Inv.after_idle (h : Inv k s) (hph : s.ph = encode .idle) (hx : execIdle s = .next t) : Inv k t := by
  obtain ⟨hcommon, -, ⟨hac, hacur⟩, ⟨hlen, -, -, hoc⟩, hstatus, -, rfl⟩ := h.clauses_at .idle hph
  obtain ⟨-, rfl⟩ | ⟨-, rfl⟩ := execIdle_next hx
  · refine ⟨.fetch, rfl, hcommon, trivial, ⟨hac, ?_⟩, ⟨hlen, nofun, nofun, fun _ _ => hoc nofun nofun⟩, ?_, rfl⟩
    · exact hacur.trans (Nat.zero_mul _).symm
    · rw [State.goto_status, hstatus]
      rfl
  · rwa [State.goto_of_ph s .idle hph]

/-- A normal termination at a record boundary keeps the invariant (R148). -/
theorem Inv.of_terminate (e : Termination) (hcommon : CommonInv k s) (haudio : AudioEnded k s)
    (hlen : s.out.length = k * recordSize s.cfg) (hoc : s.oc = 0) (hrun : Running s) : Inv k (s.terminate e) := by
  obtain ⟨hstatus, hopen⟩ := hrun
  refine ⟨.hlt, rfl, hcommon, trivial, haudio, ⟨hlen, nofun, nofun, fun _ _ => hoc⟩, ?_, ?_, hopen⟩
  · rw [State.terminate_status, hstatus]
    rfl
  · rw [State.terminate_status]
    cases e <;> rfl

/-- Taking a fault at a record boundary keeps the invariant (R147). -/
theorem Inv.of_raise (e : FaultEvent) (hcommon : CommonInv k s) (haudio : AudioEnded k s)
    (hlen : s.out.length = k * recordSize s.cfg) (hoc : s.oc = 0) (hrun : Running s) : Inv k (s.raise e) := by
  obtain ⟨hstatus, -⟩ := hrun
  refine ⟨.errPhase, rfl, hcommon, trivial, haudio, ⟨hlen, nofun, nofun, fun _ _ => hoc⟩, ?_, ?_, rfl⟩
  · rw [State.raise_status, hstatus]
    rfl
  · rw [State.raise_status]
    cases e <;> rfl

/-- FETCH keeps the invariant: a frame begins at its first pixel with a clear shift register; every other answer ends
the run at a record boundary (R108). -/
theorem Inv.after_fetch (h : Inv k s) (hph : s.ph = encode .fetch) (hx : execFetch s = .next t) : Inv k t := by
  obtain ⟨hcommon, -, ⟨hac, hacur⟩, ⟨hlen, -, -, hoc⟩, hrun⟩ := h.clauses_at .fetch hph
  have hoc0 : s.oc = 0 := hoc nofun nofun
  have hended : AudioEnded k s := ⟨hacur.ge, fun hN => by omega, fun hN => by rw [hacur, hN, Nat.mul_zero]⟩
  obtain ⟨-, e⟩ | ⟨-, b, hb, e⟩ | ⟨-, -, -, e⟩ | ⟨-, -, -, e⟩ := execFetch_cases s
  all_goals cases e.symm.trans hx
  · exact .of_terminate .cancelled hcommon hended hlen hoc0 hrun
  · obtain ⟨hv, hc, -, -, hrc, hrb, hab⟩ := hcommon
    obtain ⟨hw, hh, -, -, -, hdup⟩ := (Cfg_valid_iff s.cfg).1 hv
    have hdc : 0 < s.cfg.dup := by omega
    have hpix : 0 * s.cfg.h + 0 ≤ npix s.cfg := by omega
    have hfits : Bitmap.fits s.cfg b = true := conforms_fits s.cfg s.env hc b (List.mem_of_getElem? hb)
    exact ⟨.shift, rfl, ⟨hv, hc, hpix, hdc, hrc, hrb, hab⟩,
      ⟨b, ⟨rfl, hfits⟩, fun j hj => absurd hj (Nat.not_lt_zero j), shiftHolds_of_cleared rfl rfl, hw, hh,
        Nat.zero_le 7, (Nat.zero_mul _).symm⟩,
      ⟨rfl, hacur⟩, ⟨hlen, nofun, nofun, fun _ _ => rfl⟩, hrun⟩
  · exact .of_terminate .videoExhausted hcommon hended hlen hoc0 hrun
  · exact .of_raise .videoDecodeFailure hcommon hended hlen hoc0 hrun

/-- SHIFT keeps the invariant: the pixel is the traversal's next bit, and the last pixel fills the last byte or leaves
it to PAD (R92, R93). -/
theorem Inv.after_shift (h : Inv k s) (hph : s.ph = encode .shift) (hx : execShift s = .next t) : Inv k t := by
  obtain ⟨⟨hv, hc, -, hdc, hrc, hrb, hab⟩, ⟨b, ⟨hfb, hfits⟩, hrecord, hsr, hcx, hry, hbc, hpos⟩, haudio,
    ⟨hlen, -, -, hoc⟩, hrun⟩ := h.clauses_at .shift hph
  have hoc0 : s.oc = 0 := hoc nofun nofun
  obtain ⟨p, hp, rfl⟩ := execShift_next hx
  have hbit : p = packBit s.cfg b (8 * s.bi + s.bc) := by
    rw [hfb, pixelOperand_of_fits s.cfg b hfits s.ry s.cx hry hcx] at hp
    rw [hpos, packBit_pixel s.cfg b s.cx s.ry hcx hry, Except.ok.inj hp]
  have hroom : s.cx * s.cfg.h + s.ry < npix s.cfg := traversal_lt_npix s.cfg s.cx s.ry hcx hry
  have hsize := npix_le_videoSize s.cfg
  have hindex := advancePixel_index s.cfg s.cx s.ry
  have hrow := advancePixel_row s.cfg s.cx s.ry hry
  have hcol := advancePixel_column s.cfg s.cx s.ry hcx
  generalize advancePixel s.cfg s.cx s.ry = q at hindex hrow hcol ⊢
  have hpix : q.1 * s.cfg.h + q.2 ≤ npix s.cfg := by omega
  have hend (hw : q.1 = s.cfg.w) (h0 : q.2 = 0) : 8 * s.bi + (s.bc + 1) = npix s.cfg ∧ s.bi + 1 = videoSize s.cfg := by
    rw [hw, h0, ← npix] at hindex
    omega
  split
  · next h8 =>
    refine ⟨.stb, rfl, ⟨hv, hc, hpix, hdc, hrc, hrb, hab⟩, ⟨b, ⟨hfb, hfits⟩, hrecord,
      hsr.next_bit hbc hbit rfl rfl rfl rfl, h8, ?_⟩, haudio, ⟨hlen, nofun, nofun, fun _ _ => hoc0⟩, hrun⟩
    obtain hlt | ⟨hw, h0⟩ := hcol
    · have hpos' : 8 * s.bi + 8 = q.1 * s.cfg.h + q.2 := by omega
      exact .inl ⟨hlt, hrow, hpos'⟩
    · exact .inr ⟨hw, h0, (hend hw h0).2⟩
  · next h8 =>
    have hbc' : s.bc + 1 ≤ 7 := by omega
    split
    · next hw =>
      have h0 : q.2 = 0 := by omega
      obtain ⟨hall, hbi⟩ := hend hw h0
      exact ⟨.pad, rfl, ⟨hv, hc, hpix, hdc, hrc, hrb, hab⟩, ⟨b, ⟨hfb, hfits⟩, hrecord,
        hsr.next_bit hbc hbit rfl rfl rfl rfl, hw, h0, Nat.le_add_left 1 _, hbc', hall.ge, hbi⟩, haudio,
        ⟨hlen, nofun, nofun, fun _ _ => hoc0⟩, hrun⟩
    · next hw =>
      have hlt : q.1 < s.cfg.w := by omega
      have hpos' : 8 * s.bi + (s.bc + 1) = q.1 * s.cfg.h + q.2 := by omega
      exact ⟨.shift, rfl, ⟨hv, hc, hpix, hdc, hrc, hrb, hab⟩, ⟨b, ⟨hfb, hfits⟩, hrecord,
        hsr.next_bit hbc hbit rfl rfl rfl rfl, hlt, hrow, hbc', hpos'⟩, haudio,
        ⟨hlen, nofun, nofun, fun _ _ => hoc0⟩, hrun⟩

/-- PAD keeps the invariant: the bit it shifts in is a pad of the record's last byte (R69, R94). -/
theorem Inv.after_pad (h : Inv k s) (hph : s.ph = encode .pad) (hx : execPad s = .next t) : Inv k t := by
  obtain ⟨hcommon, ⟨b, hframe, hrecord, hsr, hcx, hry, -, hbc, hpads, hbi⟩, haudio, ⟨hlen, -, -, hoc⟩, hrun⟩ :=
    h.clauses_at .pad hph
  have hoc0 : s.oc = 0 := hoc nofun nofun
  have hbit : false = packBit s.cfg b (8 * s.bi + s.bc) := (packBit_of_le s.cfg b _ hpads).symm
  cases (execPad_eq s).symm.trans hx
  split
  · next h8 =>
    exact ⟨.stb, rfl, hcommon, ⟨b, hframe, hrecord, hsr.next_bit hbc hbit rfl rfl rfl rfl, h8, .inr ⟨hcx, hry, hbi⟩⟩,
      haudio, ⟨hlen, nofun, nofun, fun _ _ => hoc0⟩, hrun⟩
  · next h8 =>
    have hbc' : s.bc + 1 ≤ 7 := by omega
    exact ⟨.pad, rfl, hcommon, ⟨b, hframe, hrecord, hsr.next_bit hbc hbit rfl rfl rfl rfl, hcx, hry,
      Nat.le_add_left 1 _, hbc', Nat.le_succ_of_le hpads, hbi⟩, haudio, ⟨hlen, nofun, nofun, fun _ _ => hoc0⟩, hrun⟩

/-- Where the commit begins, OUT holds whole records and the record has a first byte (R42 (e), (g)). -/
theorem outputInv_at_commit (hcommon : CommonInv k s) (hlen : s.out.length = k * recordSize s.cfg) (hoc : s.oc = 0) :
    OutputInv k .wrv s := by
  obtain ⟨hv, -⟩ := hcommon
  have hsize : 1 ≤ videoSize s.cfg := videoSize_pos s.cfg hv
  have hlen' : s.out.length = k * recordSize s.cfg + s.oc := by omega
  exact ⟨hlen', fun _ => by omega, nofun, nofun⟩

/-- With the record packed and nothing of it out, the audio of record `k` begins, or at N = 0 its commit (R95, R111). -/
theorem Inv.of_chunk_start (hcommon : CommonInv k s) (hpacked : Packed s) (hac : s.ac = 0)
    (hacur : s.acur = k * chunkLen s.cfg) (hlen : s.out.length = k * recordSize s.cfg) (hoc : s.oc = 0)
    (hrun : Running s) : Inv k (s.goto (if chunkLen s.cfg = 0 then .wrv else .lda)) := by
  have hstaged : ChunkStaged s s.ac := hac ▸ chunkStaged_zero
  have hacur' : s.acur = k * chunkLen s.cfg + s.ac := by omega
  split
  · next hN =>
    exact ⟨.wrv, rfl, hcommon, hpacked, ⟨hac.trans hN.symm, hacur', hstaged⟩,
      outputInv_at_commit hcommon hlen hoc, hrun⟩
  · next hN =>
    have hac' : s.ac < chunkLen s.cfg := by omega
    exact ⟨.lda, rfl, hcommon, hpacked, ⟨hac', hacur', hstaged⟩, ⟨hlen, nofun, nofun, fun _ _ => hoc⟩, hrun⟩

/-- STB keeps the invariant: the full register is byte BI of the record, and the last byte completes it (R95, R96). -/
theorem Inv.after_stb (h : Inv k s) (hph : s.ph = encode .stb) (hx : execStb s = .next t) : Inv k t := by
  obtain ⟨⟨hv, hc, hpix, hdc, hrc, hrb, hab⟩, ⟨b, hframe, hrecord, hsr, hbc, hplace⟩, ⟨hac, hacur⟩, ⟨hlen, -, -, hoc⟩,
    hrun⟩ := h.clauses_at .stb hph
  have hoc0 : s.oc = 0 := hoc nofun nofun
  obtain ⟨hbi, rfl⟩ := execStb_next hx
  rw [hsr.sr_eq_packByte hbc]
  have hrb' := hrb.write s.bi (packByte s.cfg b s.bi) hbi
  obtain ⟨hcx, hry, hpos⟩ | ⟨hw, hry, hlast⟩ := hplace
  · rw [if_neg hcx.ne]
    exact ⟨.shift, rfl, ⟨hv, hc, hpix, hdc, hrc, hrb', hab⟩, ⟨b, hframe, hrecord.write rfl rfl rfl,
      shiftHolds_of_cleared rfl rfl, hcx, hry, Nat.zero_le 7, hpos⟩, ⟨hac, hacur⟩,
      ⟨hlen, nofun, nofun, fun _ _ => hoc0⟩, hrun⟩
  · rw [if_pos hw]
    exact .of_chunk_start ⟨hv, hc, hpix, hdc, hrc, hrb', hab⟩
      ⟨b, hframe, hrecord.write rfl rfl rfl, hw, hry, rfl, rfl, hlast⟩ hac hacur hlen hoc0 hrun

/-- LDA keeps the invariant: a sample is one byte ahead of the chunk, and a chunk left unfinished is dropped (R101). -/
theorem Inv.after_lda (h : Inv k s) (hph : s.ph = encode .lda) (hx : execLda s = .next t) : Inv k t := by
  obtain ⟨hcommon, hpacked, ⟨hac, hacur, hstaged⟩, ⟨hlen, -, -, hoc⟩, hrun⟩ := h.clauses_at .lda hph
  have hoc0 : s.oc = 0 := hoc nofun nofun
  have hended : AudioEnded k s := ⟨by omega, fun _ => by omega, fun hN => by omega⟩
  obtain ⟨v, -, e⟩ | ⟨-, -, e⟩ | ⟨-, -, e⟩ := execLda_cases s
  all_goals cases e.symm.trans hx
  · exact ⟨.qnt, rfl, hcommon, hpacked, ⟨hac, congrArg Nat.succ hacur, hstaged⟩,
      ⟨hlen, nofun, nofun, fun _ _ => hoc0⟩, hrun⟩
  · exact .of_terminate .audioExhausted hcommon hended hlen hoc0 hrun
  · exact .of_raise .audioDecodeFailure hcommon hended hlen hoc0 hrun

/-- QNT keeps the invariant: the cell it writes is the chunk's next (R102). -/
theorem Inv.after_qnt (h : Inv k s) (hph : s.ph = encode .qnt) (hx : execQnt s = .next t) : Inv k t := by
  obtain ⟨⟨hv, hc, hpix, hdc, hrc, hrb, hab⟩, hpacked, ⟨hac, hacur, hstaged⟩, ⟨hlen, -, -, hoc⟩, hrun⟩ :=
    h.clauses_at .qnt hph
  have hoc0 : s.oc = 0 := hoc nofun nofun
  obtain ⟨-, rfl⟩ := execQnt_next hx
  have hcommon : CommonInv k { s with ab := Memory.write s.ab s.ac (quant s.cfg s.smp), ac := s.ac + 1 } :=
    ⟨hv, hc, hpix, hdc, hrc, hrb, hab.write s.ac (quant s.cfg s.smp) hac⟩
  split
  · next hN =>
    exact ⟨.wrv, rfl, hcommon, hpacked, ⟨hN, hacur, hstaged.write rfl⟩, outputInv_at_commit hcommon hlen hoc0, hrun⟩
  · next hN =>
    have hac' : s.ac + 1 < chunkLen s.cfg := by omega
    exact ⟨.lda, rfl, hcommon, hpacked, ⟨hac', hacur, hstaged.write rfl⟩,
      ⟨hlen, nofun, nofun, fun _ _ => hoc0⟩, hrun⟩

/-- WRV keeps the invariant: one byte more of the record is out (R109). -/
theorem Inv.after_wrv (h : Inv k s) (hph : s.ph = encode .wrv) (hx : execWrv s = .next t) : Inv k t := by
  obtain ⟨hcommon, hpacked, haudio, ⟨hlen, -, -, -⟩, hrun⟩ := h.clauses_at .wrv hph
  have hlen' : s.out.length = k * recordSize s.cfg + s.oc := hlen
  obtain ⟨v, hoc, -, -, ⟨hlast, rfl⟩ | ⟨hlast, rfl⟩⟩ := execWrv_next hx
  · have hout : (s.out ++ [v]).length = k * recordSize s.cfg + videoSize s.cfg := by
      rw [List.length_append, List.length_singleton]
      omega
    split
    · next hN =>
      exact ⟨.nxt, rfl, hcommon, hpacked, haudio,
        ⟨hout.trans (by simp [partialLength, recordSize, hN]), nofun, nofun, fun _ _ => rfl⟩, hrun⟩
    · next hN =>
      exact ⟨.wra, rfl, hcommon, hpacked, haudio,
        ⟨hout, nofun, fun _ => Nat.pos_of_ne_zero hN, fun _ hwra => absurd rfl hwra⟩, hrun⟩
  · have hout : (s.out ++ [v]).length = k * recordSize s.cfg + (s.oc + 1) := by
      rw [List.length_append, List.length_singleton]
      omega
    exact ⟨.wrv, rfl, hcommon, hpacked, haudio, ⟨hout, fun _ => Nat.lt_of_le_of_ne hoc hlast, nofun, nofun⟩, hrun⟩

/-- WRA keeps the invariant: one byte more of the record is out (R110). -/
theorem Inv.after_wra (h : Inv k s) (hph : s.ph = encode .wra) (hx : execWra s = .next t) : Inv k t := by
  obtain ⟨hcommon, hpacked, haudio, ⟨hlen, -, -, -⟩, hrun⟩ := h.clauses_at .wra hph
  have hlen' : s.out.length = k * recordSize s.cfg + (videoSize s.cfg + s.oc) := hlen
  obtain ⟨v, hoc, -, -, ⟨hlast, rfl⟩ | ⟨hlast, rfl⟩⟩ := execWra_next hx
  · have hout : (s.out ++ [v]).length = k * recordSize s.cfg + recordSize s.cfg := by
      rw [List.length_append, List.length_singleton, hlen', recordSize]
      omega
    exact ⟨.nxt, rfl, hcommon, hpacked, haudio, ⟨hout, nofun, nofun, fun _ _ => rfl⟩, hrun⟩
  · have hout : (s.out ++ [v]).length = k * recordSize s.cfg + (videoSize s.cfg + (s.oc + 1)) := by
      rw [List.length_append, List.length_singleton]
      omega
    exact ⟨.wra, rfl, hcommon, hpacked, haudio,
      ⟨hout, nofun, fun _ => Nat.lt_of_le_of_ne hoc hlast, fun _ hwra => absurd rfl hwra⟩, hrun⟩

/-- NXT keeps the invariant with one record more: the record is wholly out, and the next one takes the next N samples
(R111, R42 (g), (h)). -/
theorem Inv.after_nxt (h : Inv k s) (hph : s.ph = encode .nxt) (hx : execNxt s = .next t) : Inv (k + 1) t := by
  have hlen : s.out.length = (k + 1) * recordSize s.cfg := h.out_length_at_nxt hph
  obtain ⟨⟨hv, hc, hpix, hdc, hrc, hrb, hab⟩, hpacked, ⟨hac, hacur, -⟩, ⟨-, -, -, hoc⟩, hrun⟩ := h.clauses_at .nxt hph
  have hoc0 : s.oc = 0 := hoc nofun nofun
  have hrc' : s.rc + 1 = BitVec.ofNat 32 (k + 1) := by
    rw [hrc, BitVec.ofNat_add]
    rfl
  have hacur' : s.acur = (k + 1) * chunkLen s.cfg := by rw [Nat.succ_mul]; omega
  obtain ⟨hlast, e⟩ | ⟨hmore, e⟩ := execNxt_cases s
  all_goals cases e.symm.trans hx
  · exact ⟨.fetch, rfl, ⟨hv, hc, hpix, Nat.zero_lt_of_lt hdc, hrc', hrb, hab⟩, trivial, ⟨rfl, hacur'⟩,
      ⟨hlen, nofun, nofun, fun _ _ => hoc0⟩, hrun⟩
  · exact .of_chunk_start ⟨hv, hc, hpix, Nat.lt_of_le_of_ne hdc hmore, hrc', hrb, hab⟩ hpacked rfl hacur' hlen hoc0
      hrun

/-- HLT keeps the invariant: it sets DONE and closes the output (R112). -/
theorem Inv.after_hlt (h : Inv k s) (hph : s.ph = encode .hlt) (hx : execHlt s = .next t) : Inv k t := by
  obtain ⟨hcommon, -, haudio, ⟨hlen, -, -, hoc⟩, hstatus, hend, -⟩ := h.clauses_at .hlt hph
  cases hx
  refine ⟨.endPhase, rfl, hcommon, trivial, haudio, ⟨hlen, nofun, nofun, fun _ _ => hoc nofun nofun⟩, ?_, hend, rfl⟩
  rw [State.goto_status, hstatus]
  rfl

/-- A reset state meets the invariant with no record committed (R42, R45). -/
theorem inv_resetWith (c : Cfg) (e : Env) (p : Pins) (hv : c.valid = true) (hc : e.conforms c = true) :
    Inv 0 (State.resetWith c e p) := by
  obtain ⟨-, -, -, -, -, hdup⟩ := (Cfg_valid_iff c).1 hv
  have hempty (n : Nat) : BufferInv n [] := ⟨rfl, fun a _ => Memory.read_nil a⟩
  have hdc : 0 < c.dup := by omega
  have hpix : 0 * c.h + 0 ≤ npix c := by omega
  exact ⟨.idle, rfl, ⟨hv, hc, hpix, hdc, rfl, hempty _, hempty _⟩, ⟨rfl, rfl, rfl, rfl, rfl, rfl⟩, ⟨rfl, rfl⟩,
    ⟨(Nat.zero_mul _).symm, nofun, nofun, fun _ _ => rfl⟩, rfl, rfl, rfl⟩

/-- THE STEP KEEPS THE INVARIANT (R42): NXT counts a record, reset begins the count anew. -/
theorem Inv.step (h : Inv k s) (hstep : step s = .next t) : Inv (nextCount k s) t := by
  obtain ⟨hv, hc, i, hph, ⟨hreset, rfl⟩ | ⟨hreset, hx⟩⟩ := step_next hstep
  · rw [nextCount, if_pos hreset]
    exact inv_resetWith s.cfg s.env s.pins hv hc
  · rw [nextCount_of_phase hph hreset]
    cases i with
    | idle => exact h.after_idle hph hx
    | fetch => exact h.after_fetch hph hx
    | shift => exact h.after_shift hph hx
    | pad => exact h.after_pad hph hx
    | stb => exact h.after_stb hph hx
    | lda => exact h.after_lda hph hx
    | qnt => exact h.after_qnt hph hx
    | wrv => exact h.after_wrv hph hx
    | wra => exact h.after_wra hph hx
    | nxt => exact h.after_nxt hph hx
    | hlt => exact h.after_hlt hph hx
    | endPhase => cases hx
    | errPhase => cases hx

end

end Sys2Proof.Machine
end

section
/-! PROOFS of where a run stands in the ideal stream (spec/43_stream_contract.md section 2): every step keeps the stream
invariant (R59, R121, R126). -/

namespace Sys2Proof.Machine

section
variable {c : Cfg} {e : Env} {k : Nat}

/-- The written part of a record grows by its byte at that place (R51, R57). -/
theorem take_srec_succ {p : Nat} {v : Byte} (h : (srec c e k)[p]? = some v) :
    (srec c e k).take p ++ [v] = (srec c e k).take (p + 1) := by
  rw [List.take_add_one, h, Option.toList_some]

/-- A record wholly written is the next record of the stream (R123). -/
theorem stream_append_take : stream c e k ++ (srec c e k).take (recordSize c) = stream c e (k + 1) := by
  rw [List.take_of_length_le (srec_length c e k).le, stream_succ]

/-- Sample `j` of the Audio Chunk of record `k` (R70). -/
theorem getElem?_audioChunk (j : Nat) (h : j < chunkLen c) :
    (audioChunk c e k)[j]? = some (quant c (e.audio.getD (k * chunkLen c + j) 0)) := by
  simp [audioChunk, h]

/-- The record after one that is not its frame's last is of the same frame, and DC is one more (R30, R122). -/
theorem succ_div_mod_of_lt {d : Nat} (h : k % d + 1 < d) : (k + 1) / d = k / d ∧ (k + 1) % d = k % d + 1 := by
  have hk : k + 1 = d * (k / d) + (k % d + 1) := by rw [← Nat.add_assoc, Nat.div_add_mod]
  have hd : 0 < d := Nat.zero_lt_of_lt h
  constructor
  · rw [hk, Nat.mul_add_div hd, Nat.div_eq_of_lt h, Nat.add_zero]
  · rw [hk, Nat.mul_add_mod, Nat.mod_eq_of_lt h]

/-- After a frame's last record the records so far are those of whole frames (R111, R122). -/
theorem succ_eq_mul_of_last {d : Nat} (h : k % d + 1 = d) : k + 1 = d * (k / d + 1) := by
  have hk : d * (k / d) + k % d = k := Nat.div_add_mod k d
  rw [Nat.mul_succ]
  omega

end

section
variable {k : Nat} {s t : State}

/-- No sample need be held of an empty chunk part. -/
theorem chunkHolds_zero : ChunkHolds k 0 s := fun j hj => absurd hj (Nat.not_lt_zero j)

/-- Storing the quantized next sample of record `k` lengthens the chunk held by one (R102, R103). -/
theorem ChunkHolds.write {n : Nat} (h : ChunkHolds k n s) (hcfg : t.cfg = s.cfg) (henv : t.env = s.env)
    (hab : t.ab = Memory.write s.ab n (quant s.cfg (s.env.audio.getD (k * chunkLen s.cfg + n) 0))) :
    ChunkHolds k (n + 1) t := by
  intro j hj
  rw [hab, hcfg, henv, Memory.read_write]
  split
  · next heq => rw [heq]
  · next hne => exact h j (by omega)

/-- IDLE keeps the stream invariant: no frame, no record, no poll yet (R107). -/
theorem StreamInv.after_idle (hs : StreamInv k s) (h : Inv k s) (hph : s.ph = encode .idle)
    (hx : execIdle s = .next t) : StreamInv k t := by
  obtain ⟨⟨hvcur, hpoll, hdc, hacur⟩, hout⟩ := hs.clauses_at .idle hph
  obtain ⟨-, -, -, -, -, -, hk⟩ := h.clauses_at .idle hph
  obtain ⟨-, rfl⟩ | ⟨-, rfl⟩ := execIdle_next hx
  · have hk' : k = s.cfg.dup * s.vcur := by rw [hk, hvcur, Nat.mul_zero]
    have hframes : s.vcur ≤ s.env.frames.length := by omega
    have hpolls : NotCancelledBefore s.env s.vcur := hvcur ▸ nofun
    exact ⟨.fetch, rfl, ⟨hk', hframes, hdc, hpoll.trans hvcur.symm, hpolls, hacur⟩, hout⟩
  · rwa [State.goto_of_ph s .idle hph]

/-- FETCH keeps the stream invariant: it delivers the frame of the next DUP records, or ends the run after those of the
frames delivered (R108, R124). -/
theorem StreamInv.after_fetch (hs : StreamInv k s) (h : Inv k s) (hph : s.ph = encode .fetch)
    (hx : execFetch s = .next t) : StreamInv k t := by
  obtain ⟨⟨hk, hvcur, hdc, hpoll, hpolls, hacur⟩, hout⟩ := hs.clauses_at .fetch hph
  obtain ⟨⟨hv, -⟩, -, ⟨-, haudio⟩, -⟩ := h.clauses_at .fetch hph
  have hended : EndedByVideo k { s with poll := s.poll + 1 } :=
    ⟨hk, hvcur, congrArg Nat.succ hpoll, hpolls, haudio⟩
  obtain ⟨hc, e⟩ | ⟨hc, b, hb, e⟩ | ⟨hc, hlen, hend, e⟩ | ⟨hc, hlen, hend, e⟩ := execFetch_cases s
  all_goals
    cases e.symm.trans hx
    rw [hpoll] at hc
  · exact ⟨.hlt, rfl, ⟨hended, hc⟩, hout⟩
  · have hlt : s.vcur < s.env.frames.length := (List.getElem?_eq_some_iff.1 hb).1
    have hdup : 0 < s.cfg.dup := by
      obtain ⟨-, -, -, -, -, hdup⟩ := (Cfg_valid_iff s.cfg).1 hv
      omega
    have hdiv : k / s.cfg.dup = s.vcur := by rw [hk, Nat.mul_div_cancel_left _ hdup]
    have hmod : 0 = k % s.cfg.dup := by rw [hk, Nat.mul_mod_right]
    have hframe : some b = some (recordFrame s.cfg s.env k) := by
      rw [recordFrame, hdiv, List.getD_eq_getElem?_getD, hb, Option.getD_some]
    have hpolls' : NotCancelledBefore s.env (s.vcur + 1) := by
      intro q hq
      obtain rfl | hq : q = s.vcur ∨ q < s.vcur := by omega
      · exact hc
      · exact hpolls q hq
    exact ⟨.shift, rfl, ⟨⟨congrArg Nat.succ hdiv.symm, hlt, hmod, hframe, congrArg Nat.succ hpoll, hpolls'⟩, hacur⟩,
      hout⟩
  · exact ⟨.hlt, rfl, ⟨hended, hvcur.antisymm hlen, hc, hend⟩, hout⟩
  · exact ⟨.errPhase, rfl, ⟨hended, hvcur.antisymm hlen, hc, hend⟩, hout⟩

/-- SHIFT leaves the frame, the sources and the output as they are (R93). -/
theorem StreamInv.after_shift (hs : StreamInv k s) (hph : s.ph = encode .shift) (hx : execShift s = .next t) :
    StreamInv k t := by
  obtain ⟨hprogress, hout⟩ := hs.clauses_at .shift hph
  obtain ⟨p, -, rfl⟩ := execShift_next hx
  split
  · exact ⟨.stb, rfl, hprogress, hout⟩
  · split
    · exact ⟨.pad, rfl, hprogress, hout⟩
    · exact ⟨.shift, rfl, hprogress, hout⟩

/-- PAD leaves the frame, the sources and the output as they are (R94). -/
theorem StreamInv.after_pad (hs : StreamInv k s) (hph : s.ph = encode .pad) (hx : execPad s = .next t) :
    StreamInv k t := by
  obtain ⟨hprogress, hout⟩ := hs.clauses_at .pad hph
  cases (execPad_eq s).symm.trans hx
  split
  · exact ⟨.stb, rfl, hprogress, hout⟩
  · exact ⟨.pad, rfl, hprogress, hout⟩

/-- Where the audio of record `k` begins, or at N = 0 its commit, OUT is the first `k` records (R95, R111). -/
theorem StreamInv.of_chunk_start (hframe : OnFrame k s) (hacur : s.acur ≤ s.env.audio.length) (hac : s.ac = 0)
    (hoc : s.oc = 0) (hout : s.out = stream s.cfg s.env k) :
    StreamInv k (s.goto (if chunkLen s.cfg = 0 then .wrv else .lda)) := by
  have hchunk : ChunkHolds k s.ac s := hac ▸ chunkHolds_zero
  split
  · refine ⟨.wrv, rfl, ⟨hframe, hacur, hchunk⟩, ?_⟩
    simp [partialLength, hoc, hout]
  · exact ⟨.lda, rfl, ⟨hframe, hacur, hchunk⟩, hout.trans (List.append_nil _).symm⟩

/-- STB leaves the frame, the sources and the output as they are (R95). -/
theorem StreamInv.after_stb (hs : StreamInv k s) (h : Inv k s) (hph : s.ph = encode .stb) (hx : execStb s = .next t) :
    StreamInv k t := by
  obtain ⟨⟨hframe, hacur⟩, hout⟩ := hs.clauses_at .stb hph
  obtain ⟨-, -, -, hac, hoc⟩ := h.at_stb hph
  obtain ⟨-, rfl⟩ := execStb_next hx
  split
  · exact .of_chunk_start hframe hacur hac hoc (hout.trans (List.append_nil _))
  · exact ⟨.shift, rfl, ⟨hframe, hacur⟩, hout⟩

/-- LDA keeps the stream invariant: the sample is the next of record `k`, or the source ended within its chunk (R101,
R124). -/
theorem StreamInv.after_lda (hs : StreamInv k s) (h : Inv k s) (hph : s.ph = encode .lda) (hx : execLda s = .next t) :
    StreamInv k t := by
  obtain ⟨⟨hframe, hacur, hchunk⟩, hout⟩ := hs.clauses_at .lda hph
  obtain ⟨-, -, ⟨hac, haudio, -⟩, -⟩ := h.clauses_at .lda hph
  have hended (hlen : s.env.audio.length ≤ s.acur) : EndedByAudio k s := by
    obtain ⟨hvcur, hframes, -, -, hpoll, hpolls⟩ := hframe
    exact ⟨hvcur, hframes, hpoll, hpolls, hacur.antisymm hlen, by omega, by omega⟩
  obtain ⟨v, hv, e⟩ | ⟨hlen, hend, e⟩ | ⟨hlen, hend, e⟩ := execLda_cases s
  all_goals cases e.symm.trans hx
  · have hsample : v = s.env.audio.getD (k * chunkLen s.cfg + s.ac) 0 := by
      rw [← haudio, List.getD_eq_getElem?_getD, hv, Option.getD_some]
    exact ⟨.qnt, rfl, ⟨hframe, (List.getElem?_eq_some_iff.1 hv).1, hchunk, hsample⟩, hout⟩
  · exact ⟨.hlt, rfl, ⟨hended hlen, hend⟩, hout⟩
  · exact ⟨.errPhase, rfl, ⟨hended hlen, hend⟩, hout⟩

/-- QNT keeps the stream invariant: the quantized sample joins the chunk of record `k` (R102). -/
theorem StreamInv.after_qnt (hs : StreamInv k s) (h : Inv k s) (hph : s.ph = encode .qnt) (hx : execQnt s = .next t) :
    StreamInv k t := by
  obtain ⟨⟨hframe, hacur, hchunk, hsample⟩, hout⟩ := hs.clauses_at .qnt hph
  obtain ⟨-, -, -, ⟨-, -, -, hoc⟩, -⟩ := h.clauses_at .qnt hph
  have hoc0 : s.oc = 0 := hoc nofun nofun
  obtain ⟨-, rfl⟩ := execQnt_next hx
  rw [hsample]
  split
  · refine ⟨.wrv, rfl, ⟨hframe, hacur, hchunk.write rfl rfl rfl⟩, hout.trans ?_⟩
    simp [partialLength, hoc0]
  · exact ⟨.lda, rfl, ⟨hframe, hacur, hchunk.write rfl rfl rfl⟩, hout⟩

/-- WRV keeps the stream invariant: the byte is the next of the packed frame of record `k` (R109). -/
theorem StreamInv.after_wrv (hs : StreamInv k s) (h : Inv k s) (hph : s.ph = encode .wrv) (hx : execWrv s = .next t) :
    StreamInv k t := by
  obtain ⟨⟨hframe, hrest⟩, hout⟩ := hs.clauses_at .wrv hph
  obtain ⟨-, ⟨b, ⟨hfb, -⟩, hrecord, -, -, -, -, hbi⟩, -⟩ := h.clauses_at .wrv hph
  obtain ⟨v, hoc, hv, -, hnext⟩ := execWrv_next hx
  obtain rfl : b = recordFrame s.cfg s.env k := by
    obtain ⟨-, -, -, hframe, -⟩ := hframe
    exact Option.some.inj (hfb.symm.trans hframe)
  have hbyte : (srec s.cfg s.env k)[s.oc]? = some v := by
    rw [getElem?_srec_video _ _ _ _ hoc, getElem?_pack _ _ _ hoc, ← hrecord s.oc (hoc.trans_eq hbi.symm), hv]
  have hout' : s.out ++ [v] = stream s.cfg s.env k ++ (srec s.cfg s.env k).take (s.oc + 1) := by
    rw [hout, partialLength, List.append_assoc, take_srec_succ hbyte]
  obtain ⟨hlast, rfl⟩ | ⟨-, rfl⟩ := hnext
  · rw [hlast] at hout'
    split
    · next hN => exact ⟨.nxt, rfl, ⟨hframe, hrest⟩, hout'.trans (by simp [partialLength, recordSize, hN])⟩
    · exact ⟨.wra, rfl, ⟨hframe, hrest⟩, hout'⟩
  · exact ⟨.wrv, rfl, ⟨hframe, hrest⟩, hout'⟩

/-- WRA keeps the stream invariant: the byte is the next of the Audio Chunk of record `k` (R110). -/
theorem StreamInv.after_wra (hs : StreamInv k s) (h : Inv k s) (hph : s.ph = encode .wra) (hx : execWra s = .next t) :
    StreamInv k t := by
  obtain ⟨⟨hframe, hacur, hchunk⟩, hout⟩ := hs.clauses_at .wra hph
  obtain ⟨-, -, ⟨hac, -⟩, -⟩ := h.clauses_at .wra hph
  obtain ⟨v, hoc, hv, -, hnext⟩ := execWra_next hx
  have hbyte : (srec s.cfg s.env k)[videoSize s.cfg + s.oc]? = some v := by
    rw [getElem?_srec_audio _ _ _ _ (Nat.le_add_right _ _), Nat.add_sub_cancel_left, getElem?_audioChunk _ hoc,
      ← hchunk s.oc (hoc.trans_eq hac.symm), hv]
  have hout' : s.out ++ [v] = stream s.cfg s.env k ++ (srec s.cfg s.env k).take (videoSize s.cfg + (s.oc + 1)) := by
    rw [hout, partialLength, List.append_assoc, take_srec_succ hbyte, Nat.add_assoc]
  obtain ⟨hlast, rfl⟩ | ⟨-, rfl⟩ := hnext
  · rw [hlast] at hout'
    exact ⟨.nxt, rfl, ⟨hframe, hacur, hchunk⟩, hout'⟩
  · exact ⟨.wra, rfl, ⟨hframe, hacur, hchunk⟩, hout'⟩

/-- NXT keeps the stream invariant with one record more: the frame's next record, or a frame boundary (R111, R122). -/
theorem StreamInv.after_nxt (hs : StreamInv k s) (h : Inv k s) (hph : s.ph = encode .nxt) (hx : execNxt s = .next t) :
    StreamInv (k + 1) t := by
  obtain ⟨⟨⟨hvcur, hframes, hdc, hfb, hpoll, hpolls⟩, hacur, -⟩, hout⟩ := hs.clauses_at .nxt hph
  obtain ⟨-, -, -, ⟨-, -, -, hoc⟩, -⟩ := h.clauses_at .nxt hph
  have hout' : s.out = stream s.cfg s.env (k + 1) := hout.trans stream_append_take
  have hdup : s.dc < s.cfg.dup := h.dc_lt
  obtain ⟨hlast, e⟩ | ⟨hmore, e⟩ := execNxt_cases s
  all_goals cases e.symm.trans hx
  · have hk : k + 1 = s.cfg.dup * s.vcur := by rw [hvcur, ← succ_eq_mul_of_last (hdc ▸ hlast)]
    exact ⟨.fetch, rfl, ⟨hk, hframes, rfl, hpoll, hpolls, hacur⟩, hout'.trans (List.append_nil _).symm⟩
  · obtain ⟨hdiv, hmod⟩ := succ_div_mod_of_lt (k := k) (d := s.cfg.dup) (by omega)
    have hframe : recordFrame s.cfg s.env (k + 1) = recordFrame s.cfg s.env k := by rw [recordFrame, recordFrame, hdiv]
    exact .of_chunk_start ⟨hdiv ▸ hvcur, hframes, hmod ▸ hdc ▸ rfl, hframe ▸ hfb, hpoll, hpolls⟩ hacur rfl
      (hoc nofun nofun) hout'

/-- HLT leaves the reason of the end as it is (R112). -/
theorem StreamInv.after_hlt (hs : StreamInv k s) (hph : s.ph = encode .hlt) (hx : execHlt s = .next t) :
    StreamInv k t := by
  obtain ⟨hprogress, hout⟩ := hs.clauses_at .hlt hph
  cases hx
  exact ⟨.endPhase, rfl, hprogress, hout⟩

/-- A reset state meets the stream invariant with no record out (R45). -/
theorem streamInv_resetWith (c : Cfg) (e : Env) (p : Pins) : StreamInv 0 (State.resetWith c e p) :=
  ⟨.idle, rfl, ⟨rfl, rfl, rfl, Nat.zero_le _⟩, rfl⟩

/-- THE STEP KEEPS THE STREAM INVARIANT: OUT stays the first records of the ideal stream and the written part of the
next (R59, R121, R126). -/
theorem StreamInv.step (hs : StreamInv k s) (h : Inv k s) (hstep : step s = .next t) :
    StreamInv (nextCount k s) t := by
  obtain ⟨-, -, i, hph, ⟨hreset, rfl⟩ | ⟨hreset, hx⟩⟩ := step_next hstep
  · rw [nextCount, if_pos hreset]
    exact streamInv_resetWith s.cfg s.env s.pins
  · rw [nextCount_of_phase hph hreset]
    cases i with
    | idle => exact hs.after_idle h hph hx
    | fetch => exact hs.after_fetch h hph hx
    | shift => exact hs.after_shift hph hx
    | pad => exact hs.after_pad hph hx
    | stb => exact hs.after_stb h hph hx
    | lda => exact hs.after_lda h hph hx
    | qnt => exact hs.after_qnt h hph hx
    | wrv => exact hs.after_wrv h hph hx
    | wra => exact hs.after_wra h hph hx
    | nxt => exact hs.after_nxt h hph hx
    | hlt => exact hs.after_hlt hph hx
    | endPhase => cases hx
    | errPhase => cases hx

end

end Sys2Proof.Machine
end

section
/-! PROOFS that every run ends (spec/42_multiplexer.md section 3): a bound of the steps a run still takes, counted as
R84 to R90 count the operations of a run, which every step lowers; and what holds at the end. -/

namespace Sys2Proof.Machine

/-- The steps of one record: its chunk and its commit (R85, R86). -/
def recordSteps (c : Cfg) : Nat := 3 * chunkLen c + videoSize c + 1

/-- The steps of one frame with its records (R88). -/
def frameSteps (c : Cfg) : Nat := 1 + 9 * videoSize c + c.dup * recordSteps c

/-- From a FETCH: the frames not yet delivered, the last FETCH, HLT (R89). -/
def stepsFromFetch (s : State) : Nat := (s.env.frames.length - s.vcur) * frameSteps s.cfg + 2

/-- After the record being made: the frame's further records, and on from FETCH. -/
def stepsAfterRecord (s : State) : Nat := (s.cfg.dup - 1 - s.dc) * recordSteps s.cfg + stepsFromFetch s

/-- The steps of the packer still to come: a byte takes nine (R84). -/
def packSteps (s : State) : Nat := 9 * videoSize s.cfg - (9 * s.bi + s.bc)

/-- A bound of the steps a run takes from a state whose phase is `i`. -/
def stepsLeft (i : Instr) (s : State) : Nat :=
  match i with
  | .idle => stepsFromFetch s + 1
  | .fetch => stepsFromFetch s
  | .shift => packSteps s + s.cfg.dup * recordSteps s.cfg + stepsFromFetch s
  | .pad => packSteps s + s.cfg.dup * recordSteps s.cfg + stepsFromFetch s
  | .stb => packSteps s + s.cfg.dup * recordSteps s.cfg + stepsFromFetch s
  | .lda => 2 * (chunkLen s.cfg - s.ac) + videoSize s.cfg + chunkLen s.cfg + 1 + stepsAfterRecord s
  | .qnt => 2 * (chunkLen s.cfg - s.ac) - 1 + videoSize s.cfg + chunkLen s.cfg + 1 + stepsAfterRecord s
  | .wrv => videoSize s.cfg - s.oc + chunkLen s.cfg + 1 + stepsAfterRecord s
  | .wra => chunkLen s.cfg - s.oc + 1 + stepsAfterRecord s
  | .nxt => 1 + stepsAfterRecord s
  | .hlt => 1
  | .endPhase => 0
  | .errPhase => 0

/-- The run stands at operation `j` in `t`, with fewer than `n` steps left. -/
def CloserToEnd (n : Nat) (t : State) : Prop := ∃ j, t.ph = encode j ∧ stepsLeft j t < n

section
variable {k : Nat} {s t : State}

/-- Two steps are left at a FETCH at least. -/
theorem two_le_stepsFromFetch : 2 ≤ stepsFromFetch s := Nat.le_add_left 2 _

/-- A frame delivered takes its steps off those left (R88). -/
theorem stepsFromFetch_of_lt (h : s.vcur < s.env.frames.length) :
    stepsFromFetch s = stepsFromFetch { s with vcur := s.vcur + 1 } + frameSteps s.cfg := by
  have hleft : s.env.frames.length - s.vcur = (s.env.frames.length - (s.vcur + 1)) + 1 := by omega
  simp only [stepsFromFetch, hleft, Nat.succ_mul]
  omega

/-- From the start of a record's audio, or at N = 0 of its commit, one record's steps at most are left before what comes
after it (R87). -/
theorem stepsLeft_chunk_start_le (s : State) :
    stepsLeft (if chunkLen s.cfg = 0 then .wrv else .lda) s ≤ recordSteps s.cfg + stepsAfterRecord s := by
  split
  · simp only [stepsLeft, recordSteps]
    omega
  · simp only [stepsLeft, recordSteps]
    omega

/-- The records of a frame are DUP: this one and those after it (R88). -/
theorem recordSteps_add_stepsAfterRecord_le (hdc : s.dc < s.cfg.dup) :
    recordSteps s.cfg + stepsAfterRecord s ≤ s.cfg.dup * recordSteps s.cfg + stepsFromFetch s := by
  have hmul : (s.cfg.dup - 1 - s.dc + 1) * recordSteps s.cfg ≤ s.cfg.dup * recordSteps s.cfg :=
    Nat.mul_le_mul_right _ (by omega)
  rw [Nat.succ_mul] at hmul
  rw [stepsAfterRecord]
  omega

/-- IDLE with start = 1 comes closer to the end. -/
theorem idle_closer (hstart : s.pins.start = true) (hx : execIdle s = .next t) :
    CloserToEnd (stepsLeft .idle s) t := by
  obtain ⟨-, rfl⟩ | ⟨hstop, -⟩ := execIdle_next hx
  · exact ⟨.fetch, rfl, Nat.lt_succ_self _⟩
  · cases hstart.symm.trans hstop

/-- FETCH comes closer to the end: a frame is used up, or the run ends. -/
theorem fetch_closer (hx : execFetch s = .next t) : CloserToEnd (stepsLeft .fetch s) t := by
  have htwo : 2 ≤ stepsFromFetch s := two_le_stepsFromFetch
  obtain ⟨-, e⟩ | ⟨-, b, hb, e⟩ | ⟨-, -, -, e⟩ | ⟨-, -, -, e⟩ := execFetch_cases s
  all_goals cases e.symm.trans hx
  · exact ⟨.hlt, rfl, htwo⟩
  · have hleft := stepsFromFetch_of_lt (List.getElem?_eq_some_iff.1 hb).1
    refine ⟨.shift, rfl, ?_⟩
    change 9 * videoSize s.cfg - (9 * 0 + 0) + s.cfg.dup * recordSteps s.cfg +
      stepsFromFetch { s with vcur := s.vcur + 1 } < stepsFromFetch s
    rw [frameSteps] at hleft
    omega
  · exact ⟨.hlt, rfl, htwo⟩
  · exact ⟨.errPhase, rfl, Nat.zero_lt_of_lt htwo⟩

/-- SHIFT comes closer to the end: BC rises in a byte the record has. -/
theorem Inv.shift_closer (h : Inv k s) (hph : s.ph = encode .shift) (hx : execShift s = .next t) :
    CloserToEnd (stepsLeft .shift s) t := by
  obtain ⟨-, ⟨b, -, -, -, hcx, hry, hbc, hpos⟩, -⟩ := h.clauses_at .shift hph
  have hpix : s.cx * s.cfg.h + s.ry < npix s.cfg := traversal_lt_npix s.cfg s.cx s.ry hcx hry
  have hroom : npix s.cfg ≤ 8 * videoSize s.cfg := (npix_le_videoSize s.cfg).1
  obtain ⟨p, -, rfl⟩ := execShift_next hx
  have hless : 9 * videoSize s.cfg - (9 * s.bi + (s.bc + 1)) + s.cfg.dup * recordSteps s.cfg + stepsFromFetch s <
      packSteps s + s.cfg.dup * recordSteps s.cfg + stepsFromFetch s := by
    rw [packSteps]
    omega
  split
  · exact ⟨.stb, rfl, hless⟩
  · split
    · exact ⟨.pad, rfl, hless⟩
    · exact ⟨.shift, rfl, hless⟩

/-- PAD comes closer to the end: BC rises in the record's last byte. -/
theorem Inv.pad_closer (h : Inv k s) (hph : s.ph = encode .pad) (hx : execPad s = .next t) :
    CloserToEnd (stepsLeft .pad s) t := by
  obtain ⟨-, ⟨b, -, -, -, -, -, -, hbc, -, hbi⟩, -⟩ := h.clauses_at .pad hph
  have hless : 9 * videoSize s.cfg - (9 * s.bi + (s.bc + 1)) + s.cfg.dup * recordSteps s.cfg + stepsFromFetch s <
      packSteps s + s.cfg.dup * recordSteps s.cfg + stepsFromFetch s := by
    rw [packSteps]
    omega
  cases (execPad_eq s).symm.trans hx
  split
  · exact ⟨.stb, rfl, hless⟩
  · exact ⟨.pad, rfl, hless⟩

/-- STB comes closer to the end: BI rises, in a record that has the byte. -/
theorem Inv.stb_closer (h : Inv k s) (hph : s.ph = encode .stb) (hx : execStb s = .next t) :
    CloserToEnd (stepsLeft .stb s) t := by
  obtain ⟨hbc, hbi, -⟩ := h.at_stb hph
  have hrecords := recordSteps_add_stepsAfterRecord_le h.dc_lt
  obtain ⟨-, rfl⟩ := execStb_next hx
  split
  · have hchunk := stepsLeft_chunk_start_le
      { s with rb := Memory.write s.rb s.bi s.sr, bi := s.bi + 1, sr := 0, bc := 0 }
    refine ⟨_, rfl, hchunk.trans_lt ?_⟩
    change recordSteps s.cfg + stepsAfterRecord s < packSteps s + s.cfg.dup * recordSteps s.cfg + stepsFromFetch s
    rw [packSteps]
    omega
  · refine ⟨.shift, rfl, ?_⟩
    change 9 * videoSize s.cfg - (9 * (s.bi + 1) + 0) + s.cfg.dup * recordSteps s.cfg + stepsFromFetch s <
      packSteps s + s.cfg.dup * recordSteps s.cfg + stepsFromFetch s
    rw [packSteps]
    omega

/-- LDA comes closer to the end: its QNT is next, or the run ends. -/
theorem Inv.lda_closer (h : Inv k s) (hph : s.ph = encode .lda) (hx : execLda s = .next t) :
    CloserToEnd (stepsLeft .lda s) t := by
  have hac : s.ac < chunkLen s.cfg := h.ac_lt_at_lda hph
  obtain ⟨v, -, e⟩ | ⟨-, -, e⟩ | ⟨-, -, e⟩ := execLda_cases s
  all_goals cases e.symm.trans hx
  · refine ⟨.qnt, rfl, ?_⟩
    change 2 * (chunkLen s.cfg - s.ac) - 1 + videoSize s.cfg + chunkLen s.cfg + 1 + stepsAfterRecord s <
      2 * (chunkLen s.cfg - s.ac) + videoSize s.cfg + chunkLen s.cfg + 1 + stepsAfterRecord s
    omega
  · refine ⟨.hlt, rfl, ?_⟩
    simp only [stepsLeft]
    omega
  · refine ⟨.errPhase, rfl, ?_⟩
    simp only [stepsLeft]
    omega

/-- QNT comes closer to the end: AC rises. -/
theorem qnt_closer (hx : execQnt s = .next t) : CloserToEnd (stepsLeft .qnt s) t := by
  obtain ⟨hac, rfl⟩ := execQnt_next hx
  split
  · refine ⟨.wrv, rfl, ?_⟩
    change videoSize s.cfg - s.oc + chunkLen s.cfg + 1 + stepsAfterRecord s <
      2 * (chunkLen s.cfg - s.ac) - 1 + videoSize s.cfg + chunkLen s.cfg + 1 + stepsAfterRecord s
    omega
  · refine ⟨.lda, rfl, ?_⟩
    change 2 * (chunkLen s.cfg - (s.ac + 1)) + videoSize s.cfg + chunkLen s.cfg + 1 + stepsAfterRecord s <
      2 * (chunkLen s.cfg - s.ac) - 1 + videoSize s.cfg + chunkLen s.cfg + 1 + stepsAfterRecord s
    omega

/-- WRV comes closer to the end: OC rises. -/
theorem wrv_closer (hx : execWrv s = .next t) : CloserToEnd (stepsLeft .wrv s) t := by
  obtain ⟨v, hoc, -, -, ⟨-, rfl⟩ | ⟨-, rfl⟩⟩ := execWrv_next hx
  · split
    · refine ⟨.nxt, rfl, ?_⟩
      change 1 + stepsAfterRecord s < videoSize s.cfg - s.oc + chunkLen s.cfg + 1 + stepsAfterRecord s
      omega
    · refine ⟨.wra, rfl, ?_⟩
      change chunkLen s.cfg - 0 + 1 + stepsAfterRecord s <
        videoSize s.cfg - s.oc + chunkLen s.cfg + 1 + stepsAfterRecord s
      omega
  · refine ⟨.wrv, rfl, ?_⟩
    change videoSize s.cfg - (s.oc + 1) + chunkLen s.cfg + 1 + stepsAfterRecord s <
      videoSize s.cfg - s.oc + chunkLen s.cfg + 1 + stepsAfterRecord s
    omega

/-- WRA comes closer to the end: OC rises. -/
theorem wra_closer (hx : execWra s = .next t) : CloserToEnd (stepsLeft .wra s) t := by
  obtain ⟨v, hoc, -, -, ⟨-, rfl⟩ | ⟨-, rfl⟩⟩ := execWra_next hx
  · refine ⟨.nxt, rfl, ?_⟩
    change 1 + stepsAfterRecord s < chunkLen s.cfg - s.oc + 1 + stepsAfterRecord s
    omega
  · refine ⟨.wra, rfl, ?_⟩
    change chunkLen s.cfg - (s.oc + 1) + 1 + stepsAfterRecord s < chunkLen s.cfg - s.oc + 1 + stepsAfterRecord s
    omega

/-- NXT comes closer to the end: DC rises, or the frame is done. -/
theorem Inv.nxt_closer (h : Inv k s) (hx : execNxt s = .next t) : CloserToEnd (stepsLeft .nxt s) t := by
  have hdc : s.dc < s.cfg.dup := h.dc_lt
  obtain ⟨-, e⟩ | ⟨hmore, e⟩ := execNxt_cases s
  all_goals cases e.symm.trans hx
  · refine ⟨.fetch, rfl, ?_⟩
    change stepsFromFetch s < 1 + ((s.cfg.dup - 1 - s.dc) * recordSteps s.cfg + stepsFromFetch s)
    omega
  · have hchunk := stepsLeft_chunk_start_le { s with rc := s.rc + 1, ac := 0, dc := s.dc + 1 }
    have hrecords : s.cfg.dup - 1 - s.dc = s.cfg.dup - 1 - (s.dc + 1) + 1 := by omega
    refine ⟨_, rfl, hchunk.trans_lt ?_⟩
    change recordSteps s.cfg + ((s.cfg.dup - 1 - (s.dc + 1)) * recordSteps s.cfg + stepsFromFetch s) <
      1 + ((s.cfg.dup - 1 - s.dc) * recordSteps s.cfg + stepsFromFetch s)
    rw [hrecords, Nat.succ_mul]
    omega

/-- Every operation of a run comes closer to its end. -/
theorem Inv.exec_closer {i : Instr} (h : Inv k s) (hph : s.ph = encode i) (hstart : s.pins.start = true)
    (hx : exec i s = .next t) : CloserToEnd (stepsLeft i s) t := by
  cases i with
  | idle => exact idle_closer hstart hx
  | fetch => exact fetch_closer hx
  | shift => exact h.shift_closer hph hx
  | pad => exact h.pad_closer hph hx
  | stb => exact h.stb_closer hph hx
  | lda => exact h.lda_closer hph hx
  | qnt => exact qnt_closer hx
  | wrv => exact wrv_closer hx
  | wra => exact wra_closer hx
  | nxt => exact h.nxt_closer hx
  | hlt =>
    cases hx
    exact ⟨.endPhase, rfl, Nat.zero_lt_one⟩
  | endPhase => cases hx
  | errPhase => cases hx

/-- A run under the invariant ends, by induction on a bound of its steps. -/
theorem Inv.exists_end {n : Nat} (h : Inv k s) (hreset : s.pins.reset = false) (hstart : s.pins.start = true)
    (hn : CloserToEnd n s) : ∃ m t, runFor m s = .next t ∧ RunOver t := by
  induction n generalizing k s with
  | zero =>
    obtain ⟨i, -, hlt⟩ := hn
    exact absurd hlt (Nat.not_lt_zero _)
  | succ n ih =>
    obtain ⟨i, hph, hlt⟩ := hn
    by_cases hover : RunOver s
    · exact ⟨0, s, rfl, hover⟩
    · obtain ⟨u, hstep⟩ := h.exists_step hreset hover
      obtain ⟨j, hj, hless⟩ := h.exec_closer hph hstart (exec_of_step i hph hreset hstep)
      obtain ⟨-, -, hpins⟩ := step_keeps_setup hstep
      obtain ⟨m, t, hrun, ht⟩ := ih (h.step hstep) (hpins ▸ hreset) (hpins ▸ hstart) ⟨j, hj, by omega⟩
      exact ⟨m + 1, t, by simp only [runFor, hstep, hrun], ht⟩

/-- What every state of a run keeps: the setup, and both invariants for some number of records (R12, R42, R126). -/
theorem runFor_keeps {n : Nat} (h : Inv k s) (hs : StreamInv k s) (hrun : runFor n s = .next t) :
    t.cfg = s.cfg ∧ t.env = s.env ∧ ∃ k', Inv k' t ∧ StreamInv k' t := by
  induction n generalizing k s with
  | zero =>
    cases hrun
    exact ⟨rfl, rfl, k, h, hs⟩
  | succ n ih =>
    simp only [runFor] at hrun
    cases hstep : step s with
    | next u =>
      rw [hstep] at hrun
      obtain ⟨hcfg, henv, -⟩ := step_keeps_setup hstep
      obtain ⟨hcfg', henv', hinv⟩ := ih (h.step hstep) (hs.step h hstep) hrun
      exact ⟨hcfg'.trans hcfg, henv'.trans henv, hinv⟩
    | fault f => simp [hstep] at hrun
    | refused r => simp [hstep] at hrun

/-- In a run RC is the number of records modulo 2^32 (R31, R42 (g)). -/
theorem Inv.rc_eq (h : Inv k s) : s.rc = BitVec.ofNat 32 k := by
  obtain ⟨-, -, ⟨-, -, -, -, hrc, -⟩, -⟩ := h
  exact hrc

/-- At the end of a run its cause has its reason, and OUT is the first `k` records, whole (R125, R126). -/
theorem StreamInv.at_end (hs : StreamInv k s) (hover : RunOver s) :
    EndReason k s ∧ s.out = stream s.cfg s.env k := by
  obtain hph | hph := hover
  · obtain ⟨hreason, hout⟩ := hs.clauses_at .endPhase hph
    exact ⟨hreason, hout.trans (List.append_nil _)⟩
  · obtain ⟨hreason, hout⟩ := hs.clauses_at .errPhase hph
    exact ⟨hreason, hout.trans (List.append_nil _)⟩

end

section
variable {c : Cfg} {e : Env} (hv : c.valid = true) (hc : e.conforms c = true)
include hv hc

/-- Every run from the launch state ends (R126, R161). -/
theorem exists_runOver : ∃ n t, runFor n (State.launch c e) = .next t ∧ RunOver t :=
  (inv_resetWith c e _ hv hc).exists_end rfl rfl ⟨.idle, rfl, Nat.lt_succ_self _⟩

/-- The state in which a run has ended: both invariants hold with `k` records out (R126). -/
theorem launch_runOver {n : Nat} {t : State} (hrun : runFor n (State.launch c e) = .next t) (hover : RunOver t) :
    t.cfg = c ∧ t.env = e ∧ ∃ k, Inv k t ∧ EndReason k t ∧ t.out = stream c e k := by
  obtain ⟨hcfg, henv, k, h, hs⟩ := runFor_keeps (inv_resetWith c e _ hv hc) (streamInv_resetWith c e _) hrun
  obtain ⟨hreason, hout⟩ := hs.at_end hover
  rw [hcfg, henv] at hout
  exact ⟨hcfg, henv, k, h, hreason, hout⟩

end

end Sys2Proof.Machine
end

section
/-! PROOFS of the obligations about the stream contract (spec/43_stream_contract.md): the record size (R128) and the
duplication (R129). -/

namespace Sys2Proof.Machine

section
variable {c : Cfg} {e : Env} {k : Nat}

/-- A chunk of which every sample is there is the source's bytes from `k*N` on, quantized (R70, R106). -/
theorem audioChunk_eq_map (h : k * chunkLen c + chunkLen c ≤ e.audio.length) :
    audioChunk c e k = ((e.audio.drop (k * chunkLen c)).take (chunkLen c)).map (quant c) := by
  apply List.ext_getElem
  · rw [audioChunk_length, List.length_map, List.length_take, List.length_drop]
    omega
  · intro j hj _
    rw [audioChunk_length] at hj
    have hlt : k * chunkLen c + j < e.audio.length := by omega
    simp [audioChunk, hlt]

/-- Under DUP = 2 a stream of two records has the one frame twice, with the first and the second chunk (R122, R129). -/
theorem stream_two {b : Bitmap} (hdup : c.dup = 2) (hframes : e.frames = [b])
    (haudio : e.audio.length = 2 * chunkLen c) :
    stream c e 2 = pack c b ++ (e.audio.take (chunkLen c)).map (quant c)
      ++ (pack c b ++ (e.audio.drop (chunkLen c)).map (quant c)) := by
  have hframe0 : recordFrame c e 0 = b := by simp [recordFrame, hframes]
  have hframe1 : recordFrame c e 1 = b := by simp [recordFrame, hframes, hdup]
  have hchunk0 : audioChunk c e 0 = (e.audio.take (chunkLen c)).map (quant c) := by
    simpa using audioChunk_eq_map (c := c) (e := e) (k := 0) (by omega)
  have hchunk1 : audioChunk c e 1 = (e.audio.drop (chunkLen c)).map (quant c) := by
    have htake : (e.audio.drop (chunkLen c)).take (chunkLen c) = e.audio.drop (chunkLen c) :=
      List.take_of_length_le (by rw [List.length_drop]; omega)
    simpa [htake] using audioChunk_eq_map (c := c) (e := e) (k := 1) (by omega)
  rw [stream_succ, stream_succ, stream_zero, List.nil_append, srec, srec, hframe0, hframe1, hchunk0, hchunk1]

/-- With one frame under DUP = 2, two chunks, EOS and no cancel, a run ends for the video's sake after two records:
the operator did not cancel, the source does not fail, and the audio lasts for both records (R125). -/
theorem EndReason.of_one_frame_twice {s : State} {b : Bitmap} (h : EndReason k s) (hdup : s.cfg.dup = 2)
    (hframes : s.env.frames = [b]) (haudio : s.env.audio.length = 2 * chunkLen s.cfg) (hend : s.env.vend = .eos)
    (hpolls : NotCancelledBefore s.env 2) : s.status.cause = .vend ∧ s.vcur = 1 ∧ k = 2 := by
  have hone : s.env.frames.length = 1 := by rw [hframes, List.length_singleton]
  have hlasts : ¬ EndedByAudio k s := by
    rintro ⟨hvcur, hle, -, -, -, -, hshort⟩
    have hk : k ≤ 1 := by
      rw [hdup] at hvcur
      omega
    have hneeds : k * chunkLen s.cfg ≤ 1 * chunkLen s.cfg := Nat.mul_le_mul_right _ hk
    omega
  cases hcause : s.status.cause
  all_goals simp only [EndReason, hcause] at h
  case vend =>
    obtain ⟨⟨hk, -⟩, hvcur, -⟩ := h
    exact ⟨rfl, hvcur.trans hone, by rw [hk, hdup, hvcur, hone]⟩
  case canc =>
    obtain ⟨⟨-, hle, -⟩, hcancel⟩ := h
    cases (hpolls s.vcur (by omega)).symm.trans hcancel
  case vfail =>
    obtain ⟨-, -, -, hfail⟩ := h
    cases hend.symm.trans hfail
  case aend => exact absurd h.1 hlasts
  case afail => exact absurd h.1 hlasts

end

/-- Settles O55: a record is its VIDEO_SIZE and its N bytes (`srec_length`, `stream_length`), and at the end of a run
OUT is the stream of as many records as RC counts (`launch_runOver`). -/
theorem recordSizeInvariant : Obligations.RecordSizeInvariant := by
  refine ⟨fun c e k => ⟨srec_length c e k, stream_length c e k⟩, fun c e n t hv hc hrun hover => ?_⟩
  obtain ⟨-, -, k, hinv, -, hout⟩ := launch_runOver hv hc hrun hover
  exact ⟨k, hinv.rc_eq, hout, hout ▸ stream_length c e k⟩

/-- Settles O53: the run ends (`exists_runOver`), after two records and for the video's sake
(`EndReason.of_one_frame_twice`), so not with a fault; and two records are the frame twice (`stream_two`). -/
theorem duplicationWritesTheRecordTwice : Obligations.DuplicationWritesTheRecordTwice := by
  intro c e b hv hc hdup hframes haudio hend hpolls
  obtain ⟨n, t, hrun, hover⟩ := exists_runOver hv hc
  obtain ⟨rfl, rfl, k, hinv, hreason, hout⟩ := launch_runOver hv hc hrun hover
  obtain ⟨hcause, hvcur, rfl⟩ := hreason.of_one_frame_twice hdup hframes haudio hend hpolls
  have hph : t.ph = encode .endPhase := by
    refine hover.resolve_right fun herr => ?_
    obtain ⟨-, -, hfault⟩ := hinv.at_errPhase herr
    rw [hcause] at hfault
    exact absurd hfault (by decide)
  exact ⟨n, t, hrun, hph, hcause, hinv.rc_eq, hvcur, hout.trans (stream_two hdup hframes haudio)⟩

end Sys2Proof.Machine
end

section
/-! PROOFS of the obligations about the exceptions (spec/60_exceptions.md): the two faults and what taking them writes
(R139, R140, R147). -/

namespace Sys2Proof.Machine

/-- Fault entry in full (R147): OPEN, BUSY, ERRF, CAUSE and PH are written, and every other field is kept. -/
theorem State.raise_eq (s : State) (e : FaultEvent) :
    s.raise e = { s with
      isOpen := false, ph := encode .errPhase,
      status := { s.status with busy := false, errf := true, cause := e.cause } } := rfl

/-- Settles O26: at the end of a source that ends in FAIL, LDA takes the fault (`execLda_of_fail`), and fault entry
writes those five fields with the cause AFAIL (`State.raise_eq`). -/
theorem audioFailureFaults : Obligations.AudioFailureFaults := by
  intro s hlen hend
  calc exec .lda s = .next (s.raise .audioDecodeFailure) := execLda_of_fail s hlen hend
    _ = _ := by rw [State.raise_eq, FaultEvent.cause]

/-- Settles O30: with cancel = 0 at the end of a source that ends in FAIL, FETCH takes the fault after its poll
(`execFetch_of_fail`), and fault entry writes those five fields with the cause VFAIL (`State.raise_eq`). -/
theorem videoFailureFaults : Obligations.VideoFailureFaults := by
  intro s hcancel hlen hend
  calc exec .fetch s = .next (State.raise { s with poll := s.poll + 1 } .videoDecodeFailure) :=
        execFetch_of_fail s hcancel hlen hend
    _ = _ := by rw [State.raise_eq, FaultEvent.cause]

end Sys2Proof.Machine
end

section
/-! PROOFS of the obligations about the host's inputs (spec/70_reset_and_hazards.md): where start is sampled (R161), and
reset, which overrides every operation (R158). -/

namespace Sys2Proof.Machine

section
variable {i : Instr} {s t : State}

/-- No operation but IDLE looks at the host's levels: under any others it does the same, and leaves them as they are
(R35, R161). Each completes for the reason it completed for; the levels are not among its conditions. -/
theorem exec_hostDrive (p : Pins) (hi : i ≠ .idle) (h : exec i s = .next t) :
    exec i (hostDrive s p) = .next (hostDrive t p) := by
  cases i with
  | idle => exact absurd rfl hi
  | fetch =>
    obtain ⟨hc, e⟩ | ⟨hc, b, hb, e⟩ | ⟨hc, hlen, hend, e⟩ | ⟨hc, hlen, hend, e⟩ := execFetch_cases s
    all_goals cases e.symm.trans h
    · exact execFetch_of_cancel (hostDrive s p) hc
    · obtain ⟨hlt, rfl⟩ := List.getElem?_eq_some_iff.1 hb
      exact execFetch_of_lt (hostDrive s p) hlt hc
    · exact execFetch_of_eos (hostDrive s p) hc hlen hend
    · exact execFetch_of_fail (hostDrive s p) hc hlen hend
  | shift =>
    obtain ⟨q, hq, rfl⟩ := execShift_next h
    exact execShift_of_pixel (hostDrive s p) q hq
  | pad =>
    cases h
    exact execPad_eq (hostDrive s p)
  | stb =>
    obtain ⟨hbi, rfl⟩ := execStb_next h
    exact execStb_of_lt (hostDrive s p) hbi
  | lda =>
    obtain ⟨v, hv, e⟩ | ⟨hlen, hend, e⟩ | ⟨hlen, hend, e⟩ := execLda_cases s
    all_goals cases e.symm.trans h
    · obtain ⟨hlt, rfl⟩ := List.getElem?_eq_some_iff.1 hv
      exact execLda_of_lt (hostDrive s p) hlt
    · exact execLda_of_short (hostDrive s p) hlen hend
    · exact execLda_of_fail (hostDrive s p) hlen hend
  | qnt =>
    obtain ⟨hac, rfl⟩ := execQnt_next h
    exact execQnt_of_lt (hostDrive s p) hac
  | wrv =>
    obtain ⟨v, hoc, hv, hopen, -⟩ := execWrv_next h
    cases (execWrv_of_cell s v hoc hv hopen).symm.trans h
    exact execWrv_of_cell (hostDrive s p) v hoc hv hopen
  | wra =>
    obtain ⟨v, hoc, hv, hopen, -⟩ := execWra_next h
    cases (execWra_of_cell s v hoc hv hopen).symm.trans h
    exact execWra_of_cell (hostDrive s p) v hoc hv hopen
  | nxt =>
    obtain ⟨hlast, e⟩ | ⟨hmore, e⟩ := execNxt_cases s
    all_goals cases e.symm.trans h
    · exact if_pos hlast
    · exact if_neg hmore
  | hlt =>
    cases h
    exact execHlt_eq (hostDrive s p)
  | endPhase => cases h
  | errPhase => cases h

/-- Reset overrides the operation of every phase that names one, the final phases included (R158). -/
theorem step_of_reset (hv : s.cfg.valid = true) (hc : s.env.conforms s.cfg = true) (hph : s.ph.toNat ≤ 12)
    (hreset : s.pins.reset = true) : step s = .next s.resetNow := by
  obtain ⟨hlt, -⟩ | ⟨-, hdecode⟩ := decode_cases s.ph
  · exact absurd hph hlt.not_ge
  · exact (step_of _ hv hc ((decode_ok_iff _ _).1 hdecode)).trans (if_pos hreset)

end

/-- Settles O20: IDLE has the two cases of start (`idleWaitsForStart`); every other operation does the same under
any levels (`exec_hostDrive`) and keeps them (`exec_keeps_setup`); the launch state is so by definition. -/
theorem startSampledOnlyInIdle : Obligations.StartSampledOnlyInIdle := by
  obtain ⟨-, -, hwait, -⟩ := idleWaitsForStart
  refine ⟨fun s hstart => ⟨_, execIdle_of_start s hstart, State.goto_ph _ _⟩, hwait, fun i s t b hi hx => ?_,
    fun _ _ => rfl⟩
  obtain ⟨-, -, hpins⟩ := exec_keeps_setup hx
  rw [hpins]
  exact exec_hostDrive { s.pins with start := b } hi hx

/-- Settles O13: the step under reset is `step_of_reset`; the reset state has the same setup and levels and PH = IDLE, so
it is met again by the same lemma. -/
theorem resetInputOverrides : Obligations.ResetInputOverrides := by
  intro s hv hc hph hreset
  have hidle : s.resetNow.ph.toNat ≤ 12 := Nat.zero_le 12
  have hstays : step s.resetNow = .next s.resetNow := step_of_reset hv hc hidle hreset
  exact ⟨s.env, s.pins, step_of_reset hv hc hph hreset, hstays, fun _ => rfl⟩

end Sys2Proof.Machine
end

section
/-! PROOFS of the obligations about the two invariants (spec/10_state.md section 7, spec/43_stream_contract.md
section 2): they hold at reset and every step keeps them, the setup is constant (spec/00_scope.md R12), a run stops in its
final phases only (spec/42_multiplexer.md section 3), and what the invariant says of OUT and STATUS (spec/20_memory.md
R54, R60). -/

namespace Sys2Proof.Machine

/-- Settles O42: reset begins the invariant anew, and each operation keeps it (`Inv.step`). -/
theorem stepKeepsInvariant : Obligations.StepKeepsInvariant :=
  fun _ _ _ => Inv.step

/-- Settles O43: reset begins the stream anew, and each operation keeps its invariant (`StreamInv.step`). -/
theorem stepKeepsStreamInvariant : Obligations.StepKeepsStreamInvariant :=
  fun _ _ _ h hs => hs.step h

/-- Settles O41: both invariants hold of every reset state (`inv_resetWith`, `streamInv_resetWith`). -/
theorem resetMeetsInvariants : Obligations.ResetMeetsInvariants :=
  fun c e p hv hc => ⟨inv_resetWith c e p hv hc, streamInv_resetWith c e p⟩

/-- Settles O15: neither an operation nor a reset writes the setup (`step_keeps_setup`). -/
theorem setupIsConstant : Obligations.SetupIsConstant :=
  fun _ _ => step_keeps_setup

section
variable {k : Nat} {s t : State}

/-- Without reset a step of a state whose setup conforms is the operation PH names (R18). -/
theorem step_eq_exec (i : Instr) (hv : s.cfg.valid = true) (hc : s.env.conforms s.cfg = true)
    (hreset : s.pins.reset = false) (hph : s.ph = encode i) : step s = exec i s :=
  (step_of i hv hc hph).trans (if_neg (by simp [hreset]))

/-- Outside the commit no byte of the record being made is out (R42 (g)). -/
theorem partialLength_eq_zero {i : Instr} (hwrv : i ≠ .wrv) (hwra : i ≠ .wra) (hnxt : i ≠ .nxt) :
    partialLength i s = 0 := by
  cases i with
  | wrv => exact absurd rfl hwrv
  | wra => exact absurd rfl hwra
  | nxt => exact absurd rfl hnxt
  | _ => rfl

/-- Outside the commit OUT is `k` records long (R42 (g), R54). -/
theorem Inv.out_length_of_ne (h : Inv k s) (hwrv : s.ph ≠ encode .wrv) (hwra : s.ph ≠ encode .wra)
    (hnxt : s.ph ≠ encode .nxt) : s.out.length = k * recordSize s.cfg := by
  obtain ⟨i, hph, -, -, -, ⟨hlen, -⟩, -⟩ := h
  rw [hph, ne_eq, encode_inj] at hwrv hwra hnxt
  rwa [partialLength_eq_zero hwrv hwra hnxt] at hlen

/-- A record of a valid configuration is not empty (R10, R11). -/
theorem recordSize_pos {c : Cfg} (hv : c.valid = true) : 0 < recordSize c :=
  Nat.add_pos_left (videoSize_pos c hv) _

/-- At most one of BUSY, DONE and ERRF is 1 in every phase of a run (R32). -/
theorem StatusInv.flags_le_one {i : Instr} (h : StatusInv k i s) :
    s.status.busy.toNat + s.status.done.toNat + s.status.errf.toNat ≤ 1 := by
  cases i with
  | idle => rw [h.1]; exact Nat.zero_le 1
  | _ => rw [h.1]; exact le_rfl

/-- Bit 2 of a cause's code marks the causes of a fault (R33). -/
theorem Cause.code_getLsbD_two (x : Cause) : x.code.getLsbD 2 = x.isFault := by cases x <;> rfl

/-- The cause of a normal end is no fault's (R33). -/
theorem Cause.isFault_of_isNormalEnd {x : Cause} (h : x.isNormalEnd = true) : x.isFault = false := by
  revert h
  cases x <;> decide

/-- At the end of a run OPEN is 0 and STATUS is DONE or ERRF with its cause: ERR with a fault's, END with another (R32,
R113, R114, R126). -/
theorem Inv.at_end (h : Inv k s) (hover : RunOver s) : s.isOpen = false ∧ s.status = s.status.cause.finalStatus ∧
    s.ph = encode s.status.cause.finalPhase := by
  obtain hph | hph := hover
  · obtain ⟨-, -, -, -, hstatus, hnormal, hopen⟩ := h.clauses_at .endPhase hph
    have hfault := Cause.isFault_of_isNormalEnd hnormal
    refine ⟨hopen, hstatus.trans ?_, hph.trans ?_⟩
    · rw [Cause.finalStatus, hfault, Bool.not_false]
    · rw [Cause.finalPhase, hfault, if_neg Bool.false_ne_true]
  · obtain ⟨-, -, -, -, hstatus, hfault, hopen⟩ := h.clauses_at .errPhase hph
    refine ⟨hopen, hstatus.trans ?_, hph.trans ?_⟩
    · rw [Cause.finalStatus, hfault, Bool.not_true]
    · rw [Cause.finalPhase, hfault, if_pos rfl]

end

/-- Settles O44: under reset the step leads to the reset state, and without it there is a step (`Inv.exists_step`) but
in END and ERR, whose meanings are the two stops. -/
theorem runsNeverGetStuck : Obligations.RunsNeverGetStuck := by
  intro k s hinv
  have ⟨i, hi, _⟩ := hinv
  obtain ⟨hv, hc⟩ := hinv.setup
  cases hreset : s.pins.reset with
  | true => exact .inl ⟨s.resetNow, (step_of i hv hc hi).trans (if_pos hreset)⟩
  | false =>
    by_cases hover : RunOver s
    · obtain hph | hph := hover
      · exact .inr (.inl ⟨rfl, hph, step_eq_exec .endPhase hv hc hreset hph⟩)
      · exact .inr (.inr ⟨rfl, hph, step_eq_exec .errPhase hv hc hreset hph⟩)
    · exact .inl (hinv.exists_step hreset hover)

/-- Settles O45: OUT is K records long outside the commit and K + 1 at NXT, RC counts K, the flags are those of the
phase (`StatusInv.flags_le_one`), and at the end those of the cause (`Inv.at_end`). -/
theorem wholeRecordsOutsideCommits : Obligations.WholeRecordsOutsideCommits := by
  intro k s hinv
  refine ⟨fun hwrv hwra => ⟨?_, fun hnxt => ?_⟩, ?_, fun hover => ?_⟩
  · by_cases hnxt : s.ph = encode .nxt
    · rw [hinv.out_length_at_nxt hnxt, Nat.mul_mod_left]
    · rw [hinv.out_length_of_ne hwrv hwra hnxt, Nat.mul_mod_left]
  · obtain ⟨hv, -⟩ := hinv.setup
    rw [hinv.out_length_of_ne hwrv hwra hnxt, Nat.mul_div_cancel _ (recordSize_pos hv)]
    exact hinv.rc_eq
  · obtain ⟨i, -, -, -, -, -, hstatus⟩ := hinv
    exact hstatus.flags_le_one
  · obtain ⟨hopen, hstatus, -⟩ := hinv.at_end hover
    refine ⟨hopen, congrArg Status.busy hstatus, ?_⟩
    rw [Cause.code_getLsbD_two]
    exact (congrArg Status.errf hstatus).symm

end Sys2Proof.Machine
end

section
/-! PROOFS of the obligations about the operation map and the step (spec/30_encoding.md section 2, spec/10_state.md
R18): the codes and their decoding (R75, R76), the reserved codes, and the operation a step executes. -/

namespace Sys2Proof.Machine

section
variable {i : Instr} {s t : State}

/-- The code of an operation is at most 12 (R75). -/
theorem encode_toNat_le (i : Instr) : (encode i).toNat ≤ 12 := by cases i <;> decide

/-- A reserved code selects no operation (R76). -/
theorem selected_of_reserved (h : 12 < s.ph.toNat) : selected s = .error (.reservedPhase s.ph) := by
  simp only [selected, (decode_error_iff _ _).2 ⟨h, rfl⟩]

/-- A state with a reserved code has no step: the setup's reason, or the code's (R76, U5). -/
theorem step_of_reserved (h : 12 < s.ph.toNat) :
    step s = .refused ((setupRefusal s).getD (.reservedPhase s.ph)) := by
  cases hr : setupRefusal s with
  | some r => simp only [step, hr, Option.getD_some]
  | none => simp only [step, hr, selected_of_reserved h, Option.getD_none]

/-- Every operation writes the code of an operation (R18, R76). -/
theorem exec_ph_le (h : exec i s = .next t) : t.ph.toNat ≤ 12 := by
  obtain ⟨j, -, hph⟩ := exec_successor h
  exact hph ▸ encode_toNat_le j

/-- Every step leads to the code of an operation (R76). -/
theorem step_ph_le (h : step s = .next t) : t.ph.toNat ≤ 12 := by
  obtain ⟨-, -, i, -, ⟨-, rfl⟩ | ⟨-, hx⟩⟩ := step_next h
  · exact encode_toNat_le .idle
  · exact exec_ph_le hx

/-- A table word that stands for an operation holds its code in the low four bits (log entry 14). -/
theorem encode_of_decodeTableWord {n w : Nat} (h : decodeTableWord n w = some i) :
    BitVec.ofNat 4 (w % 2 ^ n) = encode i := by
  simp only [decodeTableWord] at h
  split at h
  · cases hd : decode (BitVec.ofNat 4 (w % 2 ^ n)) with
    | ok j =>
      rw [hd] at h
      cases h
      exact (decode_ok_iff _ _).1 hd
    | error e => simp [hd] at h
  · cases h

/-- A table word placed for the step changes PH alone, to the code of its operation (log entry 15). -/
theorem State.withFetchWord_of_decode {n w : Nat} (h : decodeTableWord n w = some i) :
    s.withFetchWord n w = { s with ph := encode i } := by
  rw [State.withFetchWord, State.placeWord, encode_of_decodeTableWord h]

end

/-- Settles O1: each code is decoded by its own line of the map. -/
theorem operationMapCodes : Obligations.OperationMapCodes :=
  ⟨rfl, rfl, rfl, rfl, rfl, rfl, rfl, rfl, rfl, rfl, rfl, rfl, rfl⟩

/-- Settles O2: the two directions are `decode_encode` and `encode_of_decode`, and what is rejected is
`decode_error_iff`. -/
theorem decodeInvertsEncode : Obligations.DecodeInvertsEncode := by
  refine ⟨fun i _ => decode_encode i, encode_of_decode, fun code => ⟨fun ⟨e, he⟩ => ?_, fun h => ?_⟩⟩
  · exact ((decode_error_iff code e).1 he).1
  · exact ⟨_, (decode_error_iff code _).2 ⟨h, rfl⟩⟩

/-- Settles O3: a reserved code selects no operation (`step_of_reserved`), and an operation, a step and a reset write
the code of an operation, at most 12 (`encode_toNat_le`). -/
theorem reservedPhaseCodesRefused : Obligations.ReservedPhaseCodesRefused := by
  refine ⟨fun s h => ⟨_, step_of_reserved h⟩, fun s hv hc h => ?_, fun _ _ _ => exec_ph_le, fun _ _ => step_ph_le,
    fun c e p => encode_toNat_le .idle⟩
  rw [step_of_reserved h, (setupRefusal_none_iff s).2 ⟨hv, hc⟩, Option.getD_none]

/-- Settles O14: PH names the operation the step executes (`step_eq_exec`), and a placed word is its operation's code
(`State.withFetchWord_of_decode`). -/
theorem stepRunsDecodedOperation : Obligations.StepRunsDecodedOperation := by
  refine ⟨fun s i hv hc hreset hd => step_eq_exec i hv hc hreset ((decode_ok_iff _ _).1 hd),
    fun s i w hv hc hreset hw => ?_⟩
  have hplaced := State.withFetchWord_of_decode (s := s) hw
  rw [hplaced]
  exact ⟨step_eq_exec i hv hc hreset rfl, rfl⟩

end Sys2Proof.Machine
end

section
/-! PROOFS of the obligations about single operations: PAD (spec/40_packer.md R94), the quantizer applied twice
(spec/41_audio_quantizer.md section 3), fault entry (spec/60_exceptions.md R147), the final phases
(spec/42_multiplexer.md R113, R114), and where an operation stops outside every run (spec/10_state.md R43; log entries
7, 8, 9). -/

namespace Sys2Proof.Machine

/-- A zero shifted in is the plain left shift (R94). -/
theorem shiftIn_false (v : Byte) : shiftIn v false = v <<< 1 := BitVec.or_zero

/-- Where a run executes PAD the pixels are used up and the record has pads (R94). -/
theorem Inv.at_pad {k : Nat} {s : State} (h : Inv k s) (hph : s.ph = encode .pad) :
    s.cx = s.cfg.w ∧ s.ry = 0 ∧ 0 < npad s.cfg ∧ s.bc ≤ 7 := by
  obtain ⟨-, ⟨b, -, -, -, hcx, hry, -, hbc, hpads, hbi⟩, -⟩ := h.clauses_at .pad hph
  have hsum := npix_add_npad s.cfg
  exact ⟨hcx, hry, by omega, hbc⟩

/-- Settles O23: PAD is one equation (`execPad_eq`), and in a run its conditions are the invariant's (`Inv.at_pad`). -/
theorem padMovesOneZeroIn : Obligations.PadMovesOneZeroIn := by
  refine ⟨fun s => ?_, fun k s => Inv.at_pad⟩
  calc exec .pad s = _ := execPad_eq s
    _ = _ := by simp only [State.goto, shiftIn_false, apply_ite encode]

/-- Two applications of the quantizer shift twice as far. -/
theorem quant_quant (c : Cfg) (v : Byte) : quant c (quant c v) = v >>> (2 * c.shift) := by
  rw [quant, quant, ← BitVec.shiftRight_add, Nat.two_mul]

/-- Settles O9: bit `7 - SHIFT` of the quantized 0xFF is its bit 7, which the second application moves on. -/
theorem quantizerNotIdempotent : Obligations.QuantizerNotIdempotent := by
  refine fun c hshift => ⟨quant_quant c, fun hpos => ⟨0xFF, fun heq => ?_⟩⟩
  have honce : (quant c 0xFF).getLsbD (7 - c.shift) = true := by
    rw [quant_getLsbD, Nat.sub_add_cancel hshift]
    decide
  have htwice : (quant c (quant c 0xFF)).getLsbD (7 - c.shift) = false := by
    rw [quant_getLsbD, Nat.sub_add_cancel hshift]
    exact quant_getLsbD_eq_false c 0xFF 7 (by omega)
  rw [heq, honce] at htwice
  cases htwice

/-- The STATUS byte the host reads after a fault of a running block depends on the fault alone (R32, R147). -/
theorem Running.hostStatus_raise {s : State} (h : Running s) (e : FaultEvent) :
    hostStatus (s.raise e) = Status.word ⟨false, false, true, e.cause⟩ := by
  rw [hostStatus, State.raise_status, h.1, Status.fail]

/-- Settles O21: fault entry writes five fields (`State.raise_eq`), and the byte is computed for each fault
(`Running.hostStatus_raise`). -/
theorem faultEntry : Obligations.FaultEntry := by
  refine ⟨fun s e => ?_, fun s hrun => ⟨?_, ?_⟩⟩
  · cases e
    · exact State.raise_eq s .videoDecodeFailure
    · exact State.raise_eq s .audioDecodeFailure
  · rw [hrun.hostStatus_raise]
    decide
  · rw [hrun.hostStatus_raise]
    decide

/-- Settles O35: the two stops are the meanings of END and ERR. -/
theorem finalPhasesStop : Obligations.FinalPhasesStop :=
  ⟨fun _ => rfl, fun _ => rfl⟩

section
variable (s : State)

/-- SHIFT stops on an FB without value (R43). -/
theorem execShift_of_none (h : s.fb = none) : execShift s = .fault (.noValue .fb) := by
  simp only [execShift, h, pixelOperand]

/-- SHIFT stops on a pixel outside the frame buffer (log entry 8). -/
theorem execShift_of_outside (hfb : s.fb ≠ none) (h : s.cfg.h ≤ s.ry ∨ s.cfg.w ≤ s.cx) :
    execShift s = .fault (.noSuchCell .fb) := by
  obtain ⟨b, hb⟩ := Option.ne_none_iff_exists'.1 hfb
  have hout : ¬ (s.ry < s.cfg.h ∧ s.cx < s.cfg.w) := by omega
  simp only [execShift, hb, pixelOperand, if_neg hout]

/-- STB stops on a cell RB does not have (log entry 8). -/
theorem execStb_of_le (h : videoSize s.cfg ≤ s.bi) : execStb s = .fault (.noSuchCell .rb) := by
  simp only [execStb, (writeCell_error_iff _ _ _ _ _ _).2 ⟨h, rfl⟩]

/-- QNT stops on a cell AB does not have (log entry 8). -/
theorem execQnt_of_le (h : chunkLen s.cfg ≤ s.ac) : execQnt s = .fault (.noSuchCell .ab) := by
  simp only [execQnt, (writeCell_error_iff _ _ _ _ _ _).2 ⟨h, rfl⟩]

/-- WRV stops where its cell cannot be read (R43; log entries 7 and 8). -/
theorem execWrv_of_error (f : Fault) (h : readCell .rb (videoSize s.cfg) s.rb s.oc = .error f) :
    execWrv s = .fault f := by
  simp only [execWrv, h]

/-- WRA stops where its cell cannot be read (R43; log entries 7 and 8). -/
theorem execWra_of_error (f : Fault) (h : readCell .ab (chunkLen s.cfg) s.ab s.oc = .error f) :
    execWra s = .fault f := by
  simp only [execWra, h]

/-- A closed output refuses every byte (R51; log entry 9). -/
theorem outWrite_of_closed (v : Byte) (h : s.isOpen = false) : outWrite s v = .error .outputClosed :=
  if_neg (by simp [h])

/-- WRV stops on a closed output (R51; log entry 9). -/
theorem execWrv_of_closed (v : Byte) (hoc : s.oc < videoSize s.cfg) (hv : Memory.read s.rb s.oc = some v)
    (h : s.isOpen = false) : execWrv s = .fault .outputClosed := by
  simp only [execWrv, (readCell_ok_iff _ _ _ _ _).2 ⟨hoc, hv⟩, outWrite_of_closed s v h]

/-- WRA stops on a closed output (R51; log entry 9). -/
theorem execWra_of_closed (v : Byte) (hoc : s.oc < chunkLen s.cfg) (hv : Memory.read s.ab s.oc = some v)
    (h : s.isOpen = false) : execWra s = .fault .outputClosed := by
  simp only [execWra, (readCell_ok_iff _ _ _ _ _).2 ⟨hoc, hv⟩, outWrite_of_closed s v h]

end

/-- Settles O37: every stop is the one of the operand read (`readCell_error_iff`), the buffer write
(`writeCell_error_iff`) or the output write (`outWrite_of_closed`) the operation begins with. -/
theorem stopsOutsideRuns : Obligations.StopsOutsideRuns := by
  refine ⟨execShift_of_none, execShift_of_outside, execStb_of_le, execQnt_of_le,
    fun s hoc hnone => execWrv_of_error s _ ?_, fun s hoc => execWrv_of_error s _ ?_, execWrv_of_closed,
    fun s hoc hnone => execWra_of_error s _ ?_, fun s hoc => execWra_of_error s _ ?_, execWra_of_closed⟩
  · exact (readCell_error_iff _ _ _ _ _).2 (.inl ⟨hoc, hnone, rfl⟩)
  · exact (readCell_error_iff _ _ _ _ _).2 (.inr ⟨hoc, rfl⟩)
  · exact (readCell_error_iff _ _ _ _ _).2 (.inl ⟨hoc, hnone, rfl⟩)
  · exact (readCell_error_iff _ _ _ _ _).2 (.inr ⟨hoc, rfl⟩)

end Sys2Proof.Machine
end

section
/-! PROOFS of who writes what (spec/10_state.md sections 2 to 6), of the cursors, which only advance (spec/20_memory.md
section 1), and of the cancel poll, which FETCH alone makes (spec/60_exceptions.md R144). -/

namespace Sys2Proof.Machine

/-- Settles O39: each operation answers one of the states its own lemma lists, in which the fields it does not write
stand as they were. -/
theorem writersOfEachRegister : Obligations.WritersOfEachRegister := by
  intro i s t h
  cases i with
  | idle =>
    obtain ⟨-, rfl⟩ | ⟨-, rfl⟩ := execIdle_next h
    all_goals simp [Status.begin]
  | fetch =>
    obtain ⟨-, e⟩ | ⟨-, b, -, e⟩ | ⟨-, -, -, e⟩ | ⟨-, -, -, e⟩ := execFetch_cases s
    all_goals
      cases e.symm.trans h
      simp [Status.terminate]
  | shift =>
    obtain ⟨p, -, rfl⟩ := execShift_next h
    simp
  | pad =>
    cases (execPad_eq s).symm.trans h
    simp
  | stb =>
    obtain ⟨-, rfl⟩ := execStb_next h
    simp
  | lda =>
    obtain ⟨v, -, e⟩ | ⟨-, -, e⟩ | ⟨-, -, e⟩ := execLda_cases s
    all_goals
      cases e.symm.trans h
      simp [Status.terminate]
  | qnt =>
    obtain ⟨-, rfl⟩ := execQnt_next h
    simp
  | wrv =>
    obtain ⟨v, -, -, -, ⟨-, rfl⟩ | ⟨-, rfl⟩⟩ := execWrv_next h
    all_goals simp
  | wra =>
    obtain ⟨v, -, -, -, ⟨-, rfl⟩ | ⟨-, rfl⟩⟩ := execWra_next h
    all_goals simp
  | nxt =>
    obtain ⟨-, e⟩ | ⟨-, e⟩ := execNxt_cases s
    all_goals
      cases e.symm.trans h
      simp
  | hlt =>
    cases (execHlt_eq s).symm.trans h
    simp [Status.finish]
  | endPhase => cases h
  | errPhase => cases h

section
variable {i : Instr} {s t : State}

/-- FETCH makes its poll, and moves the video cursor on over the frame it delivers (R36, R40, R108). -/
theorem execFetch_cursors (h : execFetch s = .next t) :
    t.poll = s.poll + 1 ∧ (t.vcur = s.vcur ∨ (t.vcur = s.vcur + 1 ∧ s.vcur < s.env.frames.length)) := by
  obtain ⟨-, e⟩ | ⟨-, b, hb, e⟩ | ⟨-, -, -, e⟩ | ⟨-, -, -, e⟩ := execFetch_cases s
  all_goals cases e.symm.trans h
  · exact ⟨rfl, .inl rfl⟩
  · exact ⟨rfl, .inr ⟨rfl, (List.getElem?_eq_some_iff.1 hb).1⟩⟩
  · exact ⟨rfl, .inl rfl⟩
  · exact ⟨rfl, .inl rfl⟩

/-- LDA moves the audio cursor on over the sample it loads (R37, R101). -/
theorem execLda_acur (h : execLda s = .next t) :
    t.acur = s.acur ∨ (t.acur = s.acur + 1 ∧ s.acur < s.env.audio.length) := by
  obtain ⟨v, hv, e⟩ | ⟨-, -, e⟩ | ⟨-, -, e⟩ := execLda_cases s
  all_goals cases e.symm.trans h
  · exact .inr ⟨rfl, (List.getElem?_eq_some_iff.1 hv).1⟩
  · exact .inl rfl
  · exact .inl rfl

/-- WRV appends one byte to OUT (R109). -/
theorem execWrv_out (h : execWrv s = .next t) : ∃ v, t.out = s.out ++ [v] := by
  obtain ⟨v, -, -, -, ⟨-, rfl⟩ | ⟨-, rfl⟩⟩ := execWrv_next h
  all_goals exact ⟨v, rfl⟩

/-- WRA appends one byte to OUT (R110). -/
theorem execWra_out (h : execWra s = .next t) : ∃ v, t.out = s.out ++ [v] := by
  obtain ⟨v, -, -, -, ⟨-, rfl⟩ | ⟨-, rfl⟩⟩ := execWra_next h
  all_goals exact ⟨v, rfl⟩

/-- No operation but FETCH asks the video source or polls cancel (R36, R40). -/
theorem exec_keeps_vcur_poll (hi : i ≠ .fetch) (h : exec i s = .next t) : t.vcur = s.vcur ∧ t.poll = s.poll := by
  obtain ⟨-, -, -, -, -, -, -, -, -, -, -, -, -, -, hkeeps, -⟩ := writersOfEachRegister i s t h
  exact hkeeps hi

/-- No operation but LDA asks the audio source (R37). -/
theorem exec_keeps_acur (hi : i ≠ .lda) (h : exec i s = .next t) : t.acur = s.acur := by
  obtain ⟨-, -, -, -, -, -, -, -, -, -, -, -, -, -, -, hkeeps, -⟩ := writersOfEachRegister i s t h
  exact hkeeps hi

/-- No operation but WRV and WRA writes the output (R38). -/
theorem exec_keeps_out (hi : i ∉ [.wrv, .wra]) (h : exec i s = .next t) : t.out = s.out := by
  obtain ⟨-, -, -, -, -, -, -, -, -, -, -, -, -, -, -, -, hkeeps, -⟩ := writersOfEachRegister i s t h
  exact hkeeps hi

/-- Every operation moves the video cursor on over one frame at most, and polls once at most (R36, R40). -/
theorem exec_vcur_poll (h : exec i s = .next t) :
    (t.vcur = s.vcur ∨ (t.vcur = s.vcur + 1 ∧ s.vcur < s.env.frames.length)) ∧
      (t.poll = s.poll ∨ t.poll = s.poll + 1) := by
  by_cases hi : i = .fetch
  · subst hi
    obtain ⟨hpoll, hvcur⟩ := execFetch_cursors h
    exact ⟨hvcur, .inr hpoll⟩
  · obtain ⟨hvcur, hpoll⟩ := exec_keeps_vcur_poll hi h
    exact ⟨.inl hvcur, .inl hpoll⟩

/-- Every operation moves the audio cursor on over one byte at most (R37). -/
theorem exec_acur (h : exec i s = .next t) :
    t.acur = s.acur ∨ (t.acur = s.acur + 1 ∧ s.acur < s.env.audio.length) := by
  by_cases hi : i = .lda
  · subst hi
    exact execLda_acur h
  · exact .inl (exec_keeps_acur hi h)

/-- Every operation appends one byte to OUT at most, and takes none away (R38). -/
theorem exec_out (h : exec i s = .next t) : t.out = s.out ∨ ∃ v, t.out = s.out ++ [v] := by
  by_cases hi : i ∈ [.wrv, .wra]
  · obtain rfl | rfl : i = .wrv ∨ i = .wra := by simpa using hi
    · exact .inr (execWrv_out h)
    · exact .inr (execWra_out h)
  · exact .inl (exec_keeps_out hi h)

end

/-- Settles O40: a step without reset is an operation, and each cursor and OUT have one operation or two that move them
(`exec_vcur_poll`, `exec_acur`, `exec_out`). -/
theorem cursorsOnlyAdvance : Obligations.CursorsOnlyAdvance := by
  intro s t hreset hstep
  obtain ⟨-, -, i, -, ⟨hr, -⟩ | ⟨-, hx⟩⟩ := step_next hstep
  · cases hreset.symm.trans hr
  · obtain ⟨hvcur, hpoll⟩ := exec_vcur_poll hx
    have hacur := exec_acur hx
    exact ⟨hvcur.imp_right And.left, hacur.imp_right And.left, hpoll, exec_out hx,
      fun hne => (hvcur.resolve_left hne).2, fun hne => (hacur.resolve_left hne).2⟩

/-- The state with other values of the cancel input (R144; log entry 3). -/
def State.withCancel (s : State) (cs : List Bool) : State := { s with env := { s.env with cancel := cs } }

section
variable {i : Instr} {s t : State}

/-- A listed cancel value is the value of its poll (R144; log entry 3). -/
theorem cancelAt_of_listed {e : Env} {p : Nat} {b : Bool} (h : e.cancel[p]? = some b) : cancelAt e p = b := by
  simp only [cancelAt, h]

/-- FETCH with cancel = 1 does not ask the video source (R146). -/
theorem execFetch_keeps_frame_of_cancel (h : execFetch s = .next t) (hc : cancelAt s.env s.poll = true) :
    t.vcur = s.vcur ∧ t.fb = s.fb := by
  cases (execFetch_of_cancel s hc).symm.trans h
  exact ⟨rfl, rfl⟩

/-- FETCH looks at the cancel value of its own poll only (R144). -/
theorem execFetch_withCancel (cs : List Bool)
    (hcancel : cancelAt (s.withCancel cs).env s.poll = cancelAt s.env s.poll) (h : execFetch s = .next t) :
    execFetch (s.withCancel cs) = .next (t.withCancel cs) := by
  obtain ⟨hc, e⟩ | ⟨hc, b, hb, e⟩ | ⟨hc, hlen, hend, e⟩ | ⟨hc, hlen, hend, e⟩ := execFetch_cases s
  all_goals
    cases e.symm.trans h
    rw [← hcancel] at hc
  · exact execFetch_of_cancel (s.withCancel cs) hc
  · obtain ⟨hlt, rfl⟩ := List.getElem?_eq_some_iff.1 hb
    exact execFetch_of_lt (s.withCancel cs) hlt hc
  · exact execFetch_of_eos (s.withCancel cs) hc hlen hend
  · exact execFetch_of_fail (s.withCancel cs) hc hlen hend

/-- LDA does not look at the cancel input (R144). -/
theorem execLda_withCancel (cs : List Bool) (h : execLda s = .next t) :
    execLda (s.withCancel cs) = .next (t.withCancel cs) := by
  obtain ⟨v, hv, e⟩ | ⟨hlen, hend, e⟩ | ⟨hlen, hend, e⟩ := execLda_cases s
  all_goals cases e.symm.trans h
  · obtain ⟨hlt, rfl⟩ := List.getElem?_eq_some_iff.1 hv
    exact execLda_of_lt (s.withCancel cs) hlt
  · exact execLda_of_short (s.withCancel cs) hlen hend
  · exact execLda_of_fail (s.withCancel cs) hlen hend

/-- An operation does the same under any cancel input that has the value FETCH polls (R144). The conditions of the
operations but FETCH do not name the input, so each completes for the reason it completed for. -/
theorem exec_withCancel (cs : List Bool)
    (hcancel : i = .fetch → cancelAt (s.withCancel cs).env s.poll = cancelAt s.env s.poll)
    (h : exec i s = .next t) : exec i (s.withCancel cs) = .next (t.withCancel cs) := by
  cases i with
  | idle =>
    obtain ⟨hstart, rfl⟩ | ⟨hstart, rfl⟩ := execIdle_next h
    · exact execIdle_of_start (s.withCancel cs) hstart
    · exact execIdle_of_not_start (s.withCancel cs) hstart
  | fetch => exact execFetch_withCancel cs (hcancel rfl) h
  | shift =>
    obtain ⟨q, hq, rfl⟩ := execShift_next h
    exact execShift_of_pixel (s.withCancel cs) q hq
  | pad =>
    cases h
    exact execPad_eq (s.withCancel cs)
  | stb =>
    obtain ⟨hbi, rfl⟩ := execStb_next h
    exact execStb_of_lt (s.withCancel cs) hbi
  | lda => exact execLda_withCancel cs h
  | qnt =>
    obtain ⟨hac, rfl⟩ := execQnt_next h
    exact execQnt_of_lt (s.withCancel cs) hac
  | wrv =>
    obtain ⟨v, hoc, hv, hopen, -⟩ := execWrv_next h
    cases (execWrv_of_cell s v hoc hv hopen).symm.trans h
    exact execWrv_of_cell (s.withCancel cs) v hoc hv hopen
  | wra =>
    obtain ⟨v, hoc, hv, hopen, -⟩ := execWra_next h
    cases (execWra_of_cell s v hoc hv hopen).symm.trans h
    exact execWra_of_cell (s.withCancel cs) v hoc hv hopen
  | nxt =>
    obtain ⟨hlast, e⟩ | ⟨hmore, e⟩ := execNxt_cases s
    all_goals cases e.symm.trans h
    · exact if_pos hlast
    · exact if_neg hmore
  | hlt =>
    cases h
    exact execHlt_eq (s.withCancel cs)
  | endPhase => cases h
  | errPhase => cases h

end

/-- Settles O19: FETCH adds one to POLL (`execFetch_cursors`) and no other operation does (`exec_keeps_vcur_poll`); the
input is looked at in FETCH's poll only (`exec_withCancel`). -/
theorem cancelPollPrimitive : Obligations.CancelPollPrimitive :=
  ⟨fun _ => rfl, fun _ _ _ => cancelAt_of_listed, fun _ _ h => (execFetch_cursors h).1,
    fun _ _ => execFetch_keeps_frame_of_cancel, fun _ _ _ hi h => (exec_keeps_vcur_poll hi h).2,
    fun _ _ _ cs => exec_withCancel cs⟩

end Sys2Proof.Machine
end

section
/-! PROOFS of the obligations about the reference Reader and the composite operations (spec/43_stream_contract.md
section 3, spec/30_encoding.md section 5): unpacking and packing undo each other (R131), and the step counts (R90). -/

namespace Sys2Proof.Machine

section
variable (c : Cfg) (v : List Byte) (b : Bitmap)

/-- The bit of a record at position `i` of the traversal (R68, R130). -/
def recordBit (i : Nat) : Bool := (v.getD (i / 8) 0).getLsbD (7 - i % 8)

/-- The Reader reads the pixel of row `y` and column `x` at position `x*H + y` (R130). -/
theorem unpack_eq : unpack c v =
    (List.range c.h).map fun y => (List.range c.w).map fun x => recordBit v (x * c.h + y) := rfl

/-- The Reader's bitmap has the configured size (R130). -/
theorem unpack_fits : Bitmap.fits c (unpack c v) = true := by
  rw [fits_iff, unpack_eq]
  simp

/-- The pixels of the Reader's bitmap (R130). -/
theorem pixelAt_unpack (x y : Nat) (hx : x < c.w) (hy : y < c.h) :
    pixelAt (unpack c v) y x = recordBit v (x * c.h + y) := by
  simp [pixelAt, unpack_eq, hx, hy]

/-- Position `i` of the Reader's bitmap is the record's bit at that position (R68, R130). -/
theorem packBit_unpack (i : Nat) (hi : i < npix c) : packBit c (unpack c v) i = recordBit v i := by
  have hcol : i / c.h < c.w := Nat.div_lt_of_lt_mul ((Nat.mul_comm c.w c.h) ▸ hi)
  have hrow : i % c.h < c.h := Nat.mod_lt i (Nat.pos_of_ne_zero fun h0 => by simp [npix, h0] at hi)
  rw [packBit_of_lt c _ i hi, pixelAt_unpack c v _ _ hcol hrow, Nat.div_add_mod']

/-- The record's bit at position `8j + t` is bit `7 - t` of its byte `j` (R67). -/
theorem recordBit_at (j t : Nat) (ht : t < 8) : recordBit v (8 * j + t) = (v.getD j 0).getLsbD (7 - t) := by
  rw [recordBit, Nat.mul_add_div (by decide), Nat.mul_add_mod, Nat.div_eq_of_lt ht, Nat.mod_eq_of_lt ht, Nat.add_zero]

/-- A packed bitmap holds at each position of a pixel that pixel (R68, R91). -/
theorem recordBit_pack (i : Nat) (hi : i < npix c) : recordBit (pack c b) i = packBit c b i := by
  rw [recordBit, List.getD_eq_getElem?_getD, getElem?_pack c b _ (div_eight_lt_videoSize c i hi), Option.getD_some,
    packByte_bit_mod]

/-- Unpacking a packed bitmap gives it back (R131): both have H rows of W pixels, and the pixels agree. -/
theorem unpack_pack (hfits : Bitmap.fits c b = true) : unpack c (pack c b) = b := by
  obtain ⟨hlen, hrow⟩ := (fits_iff c b).1 hfits
  apply List.ext_getElem
  · simp [unpack_eq, hlen]
  · intro y hy hyb
    have hw : b[y].length = c.w := hrow _ (List.getElem_mem hyb)
    apply List.ext_getElem
    · simp [unpack_eq, hw]
    · intro x hx hxb
      have hpixel : recordBit (pack c b) (x * c.h + y) = pixelAt b y x := by
        rw [recordBit_pack c b _ (traversal_lt_npix c x y (by omega) (by omega)),
          packBit_pixel c b x y (by omega) (by omega)]
      simp [unpack_eq, hpixel, pixelAt, hyb, hxb]

/-- A packed record's pad bits are 0 (R69): they stand at positions after the last pixel. -/
theorem pads_of_pack_unpack (h : pack c (unpack c v) = v) (q : Nat) (hq : q < npad c) :
    (v.getD (videoSize c - 1) 0).getLsbD q = false := by
  obtain ⟨hle, hlt⟩ := npix_le_videoSize c
  have hsum := npix_add_npad c
  have hbyte : v.getD (videoSize c - 1) 0 = packByte c (unpack c v) (videoSize c - 1) := by
    rw [← h, List.getD_eq_getElem?_getD, getElem?_pack _ _ _ (by omega), Option.getD_some, h]
  have hq7 : 7 - (7 - q) = q := by omega
  rw [hbyte, ← hq7, packByte_bit _ _ _ _ (by omega)]
  exact packBit_of_le c _ _ (by omega)

/-- Packing the Reader's bitmap gives a record back whose pad bits are 0 (R131): bit by bit, at a pixel's position by
`packBit_unpack`, at a pad's position because both are 0. -/
theorem pack_unpack (hlen : v.length = videoSize c)
    (hpads : ∀ q, q < npad c → (v.getD (videoSize c - 1) 0).getLsbD q = false) : pack c (unpack c v) = v := by
  obtain ⟨hle, hlt⟩ := npix_le_videoSize c
  have hsum := npix_add_npad c
  apply List.ext_getElem?
  intro j
  by_cases hj : j < videoSize c
  · have hbyte : packByte c (unpack c v) j = v.getD j 0 := by
      apply BitVec.eq_of_getLsbD_eq
      intro q hq
      have hq7 : 7 - (7 - q) = q := by omega
      rw [← hq7, packByte_bit _ _ _ _ (by omega), ← recordBit_at v j (7 - q) (by omega)]
      by_cases hpix : 8 * j + (7 - q) < npix c
      · exact packBit_unpack c v _ hpix
      · have hlast : j = videoSize c - 1 := by omega
        rw [packBit_of_le c _ _ (by omega), recordBit_at v j (7 - q) (by omega), hq7, hlast]
        exact (hpads q (by omega)).symm
    have hjv : j < v.length := by omega
    rw [getElem?_pack _ _ _ hj, hbyte, List.getD_eq_getElem?_getD, List.getElem?_eq_getElem hjv, Option.getD_some]
  · rw [List.getElem?_eq_none (by rw [pack_length]; omega), List.getElem?_eq_none (by omega)]

end

/-- Settles O7: one direction is `unpack_pack`; the other holds for records whose pads are 0 (`pack_unpack`), and a
packed record's are (`pads_of_pack_unpack`). -/
theorem packUnpackRoundTrip : Obligations.PackUnpackRoundTrip :=
  ⟨fun c b _ => unpack_pack c b,
    fun c v _ hlen => ⟨unpack_fits c v, pads_of_pack_unpack c v, pack_unpack c v hlen⟩⟩

section
variable (c : Cfg)

/-- The operations of the packer for position `i` of the traversal, pads included: shift a bit in, and after the eighth
store the byte (R84). -/
def bitOps (i : Nat) : List Instr :=
  (if i < npix c then Instr.shift else .pad) :: if (i + 1) % 8 = 0 then [.stb] else []

/-- The pads come last, and are stored with the last byte (R69, R84). -/
theorem flatMap_bitOps_pads : (List.range (npad c)).flatMap (fun t => bitOps c (npix c + t)) =
    if 0 < npad c then List.replicate (npad c) .pad ++ [.stb] else [] := by
  have hsum := npix_add_npad c
  obtain ⟨hle, hlt⟩ := npix_le_videoSize c
  cases hp : npad c with
  | zero => rfl
  | succ p =>
    have hlast : bitOps c (npix c + p) = [.pad, .stb] := by
      have hmod : (npix c + p + 1) % 8 = 0 := by omega
      simp [bitOps, hmod]
    have hbefore : (List.range p).flatMap (fun t => bitOps c (npix c + t)) = List.replicate p .pad := by
      have hpad (t : Nat) (ht : t ∈ List.range p) : bitOps c (npix c + t) = [.pad] := by
        have hmod : (npix c + t + 1) % 8 ≠ 0 := by
          rw [List.mem_range] at ht
          omega
        simp [bitOps, hmod]
      rw [List.flatMap_congr hpad, ← List.map_eq_flatMap, List.map_const', List.length_range]
    rw [List.range_succ, List.flatMap_append, hbefore, List.flatMap_singleton, hlast, if_pos (Nat.succ_pos p),
      List.replicate_succ', List.append_assoc, List.singleton_append]

/-- PACK is the packer's operations for the 8*VIDEO_SIZE positions of the traversal (R84). -/
theorem packMacro_eq : packMacro c = (List.range (8 * videoSize c)).flatMap (bitOps c) := by
  have hpixels : (List.range (npix c)).flatMap (fun i => if (i + 1) % 8 = 0 then [.shift, .stb] else [.shift]) =
      (List.range (npix c)).flatMap (bitOps c) := by
    refine List.flatMap_congr fun i hi => ?_
    rw [bitOps, if_pos (List.mem_range.1 hi)]
    split <;> rfl
  rw [packMacro, hpixels, ← npix_add_npad, List.range_add, List.flatMap_append, List.flatMap_map,
    flatMap_bitOps_pads]

/-- Eight positions of the traversal take nine operations (R84, R90). -/
theorem length_flatMap_bitOps (n : Nat) : ((List.range (8 * n)).flatMap (bitOps c)).length = 9 * n := by
  induction n with
  | zero => rfl
  | succ n ih =>
    have hbyte : ((List.range 8).map fun t => (bitOps c (8 * n + t)).length).sum = 9 := by
      have hmod (t : Nat) : (8 * n + t + 1) % 8 = (t + 1) % 8 := by omega
      simp [List.range_succ, bitOps, hmod]
    rw [Nat.mul_succ, List.range_add, List.flatMap_append, List.length_append, ih, List.flatMap_map,
      List.length_flatMap, hbyte, Nat.mul_succ]

theorem packMacro_length : (packMacro c).length = 9 * videoSize c := by
  rw [packMacro_eq, length_flatMap_bitOps]

theorem chunkMacro_length : (chunkMacro c).length = 2 * chunkLen c := by
  simp [chunkMacro, Nat.mul_comm]

theorem commitMacro_length : (commitMacro c).length = videoSize c + chunkLen c + 1 := by
  simp [commitMacro, Nat.add_assoc]

theorem recordMacro_length : (recordMacro c).length = recordSteps c := by
  rw [recordMacro, List.length_append, chunkMacro_length, commitMacro_length, recordSteps]
  omega

theorem frameMacro_length : (frameMacro c).length = frameSteps c := by
  simp [frameMacro, packMacro_length, recordMacro_length, frameSteps]
  omega

theorem runMacro_length (nf : Nat) : (runMacro c nf).length = 1 + nf * frameSteps c + 2 := by
  simp [runMacro, frameMacro_length]
  omega

end

/-- Settles O52: PACK takes nine operations for each eight positions (`packMacro_length`); the others are
concatenations of as many copies as their definitions say. -/
theorem macroStepCounts : Obligations.MacroStepCounts := by
  intro c nf
  have hpack : (packMacro c).length = npix c + npad c + videoSize c := by
    rw [packMacro_length, npix_add_npad]
    omega
  exact ⟨hpack, packMacro_length c, chunkMacro_length c, commitMacro_length c, frameMacro_length c,
    runMacro_length c nf⟩

end Sys2Proof.Machine
end

section
/-! PROOFS of the obligations about whole runs (spec/43_stream_contract.md sections 2 and 3): the count, the cause and
the cursors of a run (R124 to R127), its end through the host's interface, cancel (spec/42_multiplexer.md R118) and the
Reader's parse of the output (R132). -/

namespace Sys2Proof.Machine

/-- What the start has and every step keeps holds in every state of a run. -/
theorem runFor_induction {P : State → Prop} (hstep : ∀ s t, P s → step s = .next t → P t) {n : Nat}
    {s t : State} (h : P s) (hrun : runFor n s = .next t) : P t := by
  induction n generalizing s with
  | zero =>
    cases hrun
    exact h
  | succ n ih =>
    simp only [runFor] at hrun
    cases hs : step s with
    | next u =>
      rw [hs] at hrun
      exact ih (hstep s u h hs) hrun
    | fault f => simp [hs] at hrun
    | refused r => simp [hs] at hrun

/-- The input levels are the same in every state of a run (R35). -/
theorem runFor_keeps_pins {n : Nat} {s t : State} (hrun : runFor n s = .next t) : t.pins = s.pins := by
  refine runFor_induction (P := fun u => u.pins = s.pins) (fun u w hu hstep => ?_) rfl hrun
  obtain ⟨-, -, hpins⟩ := step_keeps_setup hstep
  exact hpins.trans hu

/-- A step keeps the audio cursor within the source (R37, R50). -/
theorem step_keeps_acur_le {s t : State} (h : s.acur ≤ s.env.audio.length) (hstep : step s = .next t) :
    t.acur ≤ t.env.audio.length := by
  obtain ⟨-, -, i, -, ⟨-, rfl⟩ | ⟨-, hx⟩⟩ := step_next hstep
  · exact Nat.zero_le _
  · obtain ⟨-, henv, -⟩ := exec_keeps_setup hx
    rw [henv]
    obtain hacur | ⟨hacur, hlt⟩ := exec_acur hx
    · omega
    · omega

section
variable {c : Cfg} {e : Env}

/-- The first poll of cancel that a run can come to is the cancel point (R124). -/
theorem cancelPoint_of_cancel {p : Nat} (hp : p ≤ e.frames.length) (hbefore : NotCancelledBefore e p)
    (hcancel : cancelAt e p = true) : cancelPoint e = some p := by
  refine List.find?_range_eq_some.2 ⟨hcancel, List.mem_range.2 (Nat.lt_succ_of_le hp), fun q hq => ?_⟩
  rw [hbefore q hq, Bool.not_false]

/-- Without cancel at any poll a run can come to there is no cancel point (R124). -/
theorem cancelPoint_of_not_cancelled (h : NotCancelledBefore e (e.frames.length + 1)) : cancelPoint e = none :=
  List.find?_range_eq_none.2 fun q hq => by rw [h q hq, Bool.not_false]

/-- One poll more without cancel (R124). -/
theorem notCancelled_succ {n : Nat} (h : NotCancelledBefore e n) (hn : cancelAt e n = false) :
    NotCancelledBefore e (n + 1) := by
  intro q hq
  obtain rfl | hlt : q = n ∨ q < n := by omega
  · exact hn
  · exact h q hlt

/-- The frames used are frames of the source (R124). -/
theorem usableFrames_le (e : Env) : usableFrames e ≤ e.frames.length := by
  rw [usableFrames]
  cases hp : cancelPoint e with
  | none => exact le_rfl
  | some p =>
    obtain ⟨-, hmem, -⟩ := List.find?_range_eq_some.1 hp
    exact Nat.le_of_lt_succ (List.mem_range.1 hmem)

/-- Frames before which no poll saw cancel are used (R124). -/
theorem le_usableFrames {n : Nat} (hn : n ≤ e.frames.length) (h : NotCancelledBefore e n) : n ≤ usableFrames e := by
  rw [usableFrames]
  cases hp : cancelPoint e with
  | none => exact hn
  | some p =>
    obtain ⟨hcancel, -⟩ := List.find?_range_eq_some.1 hp
    by_contra hlt
    rw [h p (not_le.1 hlt)] at hcancel
    cases hcancel

/-- The video side ends a run iff the source has the audio of all its records (R124, R125). -/
theorem videoSideEnds_iff : videoSideEnds c e = true ↔ videoRecords c e * chunkLen c ≤ e.audio.length := by
  by_cases hN : chunkLen c = 0
  · simp [videoSideEnds, audioRecords, hN]
  · simp [videoSideEnds, audioRecords, hN, Nat.le_div_iff_mul_le (Nat.pos_of_ne_zero hN)]

/-- Where the video side ends a run, the records are those of its frames (R124). -/
theorem recordCount_of_videoSide (h : videoSideEnds c e = true) : recordCount c e = videoRecords c e := by
  rw [videoSideEnds] at h
  rw [recordCount]
  cases ha : audioRecords c e with
  | none => rfl
  | some ka =>
    rw [ha] at h
    exact min_eq_left (of_decide_eq_true h)

/-- Where the audio side ends a run, the records are the whole chunks (R124). -/
theorem recordCount_of_audioSide (h : videoSideEnds c e = false) : recordCount c e = e.audio.length / chunkLen c := by
  rw [videoSideEnds] at h
  rw [recordCount]
  cases ha : audioRecords c e with
  | none => simp [ha] at h
  | some ka =>
    rw [ha] at h
    rw [audioRecords] at ha
    split at ha
    · cases ha
    · cases ha
      exact min_eq_right (Nat.le_of_lt (not_le.1 (of_decide_eq_false h)))

/-- A run's records are records of frames the video side has (R124). -/
theorem recordCount_le_videoRecords (c : Cfg) (e : Env) : recordCount c e ≤ videoRecords c e := by
  rw [recordCount]
  split
  · exact le_rfl
  · exact min_le_left _ _

end

/-- What the contract says of the end of a run, with `k` records out (R124 to R127). -/
def MeetsContract (k : Nat) (s : State) : Prop :=
  k = recordCount s.cfg s.env ∧ s.status.cause = endCause s.cfg s.env ∧ s.vcur = finalVcur s.cfg s.env ∧
    s.acur = finalAcur s.cfg s.env ∧ s.poll = finalPoll s.cfg s.env

section
variable {k : Nat} {s : State}

/-- A run ended by the video side meets the contract: its audio lasted for the records of all the frames used, since
the cursor has passed that audio (R124 to R127). -/
theorem EndedByVideo.meetsContract (h : EndedByVideo k s) (hacur : s.acur ≤ s.env.audio.length)
    (huse : usableFrames s.env = s.vcur)
    (hcause : videoSideEnds s.cfg s.env = true → endCause s.cfg s.env = s.status.cause) : MeetsContract k s := by
  obtain ⟨hk, -, hpoll, -, haudio⟩ := h
  have hrecords : videoRecords s.cfg s.env = k := by rw [videoRecords, huse, hk]
  have hends : videoSideEnds s.cfg s.env = true := by
    rw [videoSideEnds_iff, hrecords, ← haudio]
    exact hacur
  have hcount : recordCount s.cfg s.env = k := (recordCount_of_videoSide hends).trans hrecords
  refine ⟨hcount.symm, (hcause hends).symm, ?_, ?_, ?_⟩
  · rw [finalVcur, if_pos hends, huse]
  · rw [finalAcur, if_pos hends, hcount, haudio]
  · rw [finalPoll, if_pos hends, huse, hpoll]

/-- A run ended by the audio side meets the contract: fewer chunks are there than the frame delivered last has records
(R124 to R127). -/
theorem EndedByAudio.meetsContract (h : EndedByAudio k s) (hdup : 0 < s.cfg.dup)
    (hcause : videoSideEnds s.cfg s.env = false → endCause s.cfg s.env = s.status.cause) : MeetsContract k s := by
  obtain ⟨hvcur, hframes, hpoll, hpolls, haudio, hle, hlt⟩ := h
  have huse : k / s.cfg.dup + 1 ≤ usableFrames s.env := hvcur ▸ le_usableFrames hframes hpolls
  have hrecords : k + 1 ≤ videoRecords s.cfg s.env :=
    calc k + 1 ≤ s.cfg.dup * (k / s.cfg.dup + 1) := Nat.lt_mul_div_succ k hdup
      _ ≤ videoRecords s.cfg s.env := Nat.mul_le_mul_left _ huse
  have hends : videoSideEnds s.cfg s.env = false := by
    rw [Bool.eq_false_iff, ne_eq, videoSideEnds_iff, not_le]
    calc s.env.audio.length < (k + 1) * chunkLen s.cfg := by rwa [Nat.succ_mul]
      _ ≤ videoRecords s.cfg s.env * chunkLen s.cfg := Nat.mul_le_mul_right _ hrecords
  have hcount : recordCount s.cfg s.env = k := by
    rw [recordCount_of_audioSide hends]
    exact Nat.div_eq_of_lt_le hle (by rwa [Nat.succ_mul])
  have hnot : ¬ videoSideEnds s.cfg s.env = true := by simp [hends]
  refine ⟨hcount.symm, (hcause hends).symm, ?_, ?_, ?_⟩
  · rw [finalVcur, if_neg hnot, hcount, hvcur]
  · rw [finalAcur, if_neg hnot, haudio]
  · rw [finalPoll, if_neg hnot, hcount, hpoll, hvcur]

/-- The reason of an end is the contract's (R125): the cancel point, the end of the video, or that of the audio. -/
theorem EndReason.meetsContract (h : EndReason k s) (hdup : 0 < s.cfg.dup) (hacur : s.acur ≤ s.env.audio.length) :
    MeetsContract k s := by
  have hall (hv : EndedByVideo k s) (hvcur : s.vcur = s.env.frames.length) (hpoll : cancelAt s.env s.vcur = false) :
      cancelPoint s.env = none ∧ usableFrames s.env = s.vcur := by
    obtain ⟨-, -, -, hpolls, -⟩ := hv
    have hnone : cancelPoint s.env = none := cancelPoint_of_not_cancelled (hvcur ▸ notCancelled_succ hpolls hpoll)
    exact ⟨hnone, by rw [usableFrames, hnone, Option.getD_none, hvcur]⟩
  cases hcause : s.status.cause
  all_goals simp only [EndReason, hcause] at h
  case vend =>
    obtain ⟨hv, hvcur, hpoll, hend⟩ := h
    obtain ⟨hnone, huse⟩ := hall hv hvcur hpoll
    exact hv.meetsContract hacur huse fun hends => by simp [endCause, hends, hnone, hend, hcause]
  case canc =>
    obtain ⟨hv, hcancel⟩ := h
    have ⟨_, hframes, _, hpolls, _⟩ := hv
    have hsome : cancelPoint s.env = some s.vcur := cancelPoint_of_cancel hframes hpolls hcancel
    have huse : usableFrames s.env = s.vcur := by rw [usableFrames, hsome, Option.getD_some]
    exact hv.meetsContract hacur huse fun hends => by simp [endCause, hends, hsome, hcause]
  case vfail =>
    obtain ⟨hv, hvcur, hpoll, hend⟩ := h
    obtain ⟨hnone, huse⟩ := hall hv hvcur hpoll
    exact hv.meetsContract hacur huse fun hends => by simp [endCause, hends, hnone, hend, hcause]
  case aend => exact h.1.meetsContract hdup fun hends => by simp [endCause, hends, h.2, hcause]
  case afail => exact h.1.meetsContract hdup fun hends => by simp [endCause, hends, h.2, hcause]

end

/-- Every frame is shown once or twice (R9, R11). -/
theorem dup_pos {c : Cfg} (hv : c.valid = true) : 0 < c.dup := by
  obtain ⟨-, -, -, -, -, hdup⟩ := (Cfg_valid_iff c).1 hv
  omega

section
variable {c : Cfg} {e : Env} (hv : c.valid = true) (hc : e.conforms c = true)
include hv hc

/-- The state in which a run has ended is the contract's (R124 to R127). -/
theorem launch_runOver_contract {n : Nat} {t : State} (hrun : runFor n (State.launch c e) = .next t)
    (hover : RunOver t) : t.ph = encode (endCause c e).finalPhase ∧ t.out = stream c e (recordCount c e) ∧
      t.rc = BitVec.ofNat 32 (recordCount c e) ∧ t.isOpen = false ∧ t.status = (endCause c e).finalStatus ∧
      t.vcur = finalVcur c e ∧ t.acur = finalAcur c e ∧ t.poll = finalPoll c e := by
  have hacur : t.acur ≤ t.env.audio.length :=
    runFor_induction (P := fun u => u.acur ≤ u.env.audio.length) (fun _ _ => step_keeps_acur_le) (Nat.zero_le _) hrun
  obtain ⟨rfl, rfl, k, hinv, hreason, hout⟩ := launch_runOver hv hc hrun hover
  obtain ⟨rfl, hcause, hcursors⟩ := hreason.meetsContract (dup_pos hv) hacur
  obtain ⟨hopen, hstatus, hph⟩ := hinv.at_end hover
  rw [hcause] at hstatus hph
  exact ⟨hph, hout, hinv.rc_eq, hopen, hstatus, hcursors⟩

end

/-- The host's run of the core is the model's run (R83). -/
theorem core_run_eq (n : Nat) (s : State) : Host.Core.run Sys2Proof.core n s = runFor n s := by
  induction n generalizing s with
  | zero => rfl
  | succ n ih =>
    have hstep : Sys2Proof.core.step s = step s := rfl
    simp only [Host.Core.run, runFor, hstep]
    cases step s with
    | next u => exact ih u
    | fault f => rfl
    | refused r => rfl

/-- Settles O49: a run ends (`exists_runOver`), in the state the contract gives (`launch_runOver_contract`). -/
theorem runWritesTheIdealStream : Obligations.RunWritesTheIdealStream := by
  intro c e hv hc
  obtain ⟨n, t, hrun, hover⟩ := exists_runOver hv hc
  obtain ⟨hph, hout, hrest⟩ := launch_runOver_contract hv hc hrun hover
  exact ⟨n, t, hrun, hph, hout, hout ▸ stream_length c e _, hrest⟩

/-- Settles O50: the host's run is the model's (`core_run_eq`), which ends with reset still 0, so with no further step. -/
theorem coreRunsEnd : Obligations.CoreRunsEnd := by
  intro c e hv hc
  obtain ⟨n, t, hrun, hover⟩ := exists_runOver hv hc
  obtain ⟨-, hout, -, hopen, -⟩ := launch_runOver_contract hv hc hrun hover
  have hreset : t.pins.reset = false := congrArg Pins.reset (runFor_keeps_pins hrun)
  exact ⟨n, t, (core_run_eq n _).trans hrun, hover.step_ne_next hreset, hover, hopen, hout⟩

section
variable (c : Cfg) (e : Env)

/-- A longer stream begins with the shorter one (R123). -/
theorem stream_prefix {k l : Nat} (h : k ≤ l) : ∃ w, stream c e l = stream c e k ++ w := by
  obtain ⟨d, rfl⟩ := Nat.exists_eq_add_of_le h
  exact ⟨_, by rw [stream, List.range_add, List.flatMap_append, ← stream]⟩

/-- The ideal stream does not depend on cancel (R123). -/
theorem stream_withCancel (cs : List Bool) (k : Nat) : stream c { e with cancel := cs } k = stream c e k := rfl

/-- The count of a run grows with the frames used: the chunks are the same under any cancel (R118, R124). -/
theorem recordCount_le_withCancel (cs : List Bool) (h : usableFrames e ≤ usableFrames { e with cancel := cs }) :
    recordCount c e ≤ recordCount c { e with cancel := cs } := by
  have hvideo : videoRecords c e ≤ videoRecords c { e with cancel := cs } := Nat.mul_le_mul_left _ h
  have haudio : audioRecords c { e with cancel := cs } = audioRecords c e := rfl
  rw [recordCount, recordCount, haudio]
  cases audioRecords c e with
  | none => exact hvideo
  | some ka => exact min_le_min_right ka hvideo

/-- The video record of record `j` stands in the stream where R57 says. -/
theorem take_drop_stream {j k : Nat} (h : j < k) :
    ((stream c e k).drop (j * recordSize c)).take (videoSize c) = pack c (recordFrame c e j) := by
  obtain ⟨w, hw⟩ := stream_prefix c e h
  rw [hw, stream_succ, List.append_assoc, List.drop_left' (stream_length c e j), srec, List.append_assoc,
    List.take_left' (pack_length c _)]

/-- The Reader finds in a stream the packed frame of each record (R132). -/
theorem readerParse_stream (hv : c.valid = true) (k : Nat) :
    readerParse c (stream c e k) = (List.range k).map fun j => unpack c (pack c (recordFrame c e j)) := by
  rw [readerParse, stream_length, Nat.mul_div_cancel _ (recordSize_pos hv)]
  refine List.map_congr_left fun j hj => ?_
  rw [take_drop_stream c e (List.mem_range.1 hj)]

/-- A record of a run has its frame in the source, which is of the configured size (R122, R124, R170). -/
theorem recordFrame_fits (hc : e.conforms c = true) {j : Nat} (hj : j < recordCount c e) :
    Bitmap.fits c (recordFrame c e j) = true := by
  have hframe : j / c.dup < e.frames.length := by
    refine Nat.div_lt_of_lt_mul ?_
    calc j < recordCount c e := hj
      _ ≤ c.dup * usableFrames e := recordCount_le_videoRecords c e
      _ ≤ c.dup * e.frames.length := Nat.mul_le_mul_left _ (usableFrames_le e)
  rw [recordFrame, List.getD_eq_getElem?_getD, List.getElem?_eq_getElem hframe, Option.getD_some]
  exact conforms_fits c e hc _ (List.getElem_mem hframe)

end

/-- Settles O54: the two streams are the same, and the uncancelled run uses every frame, so it has at least the records
of the other (`recordCount_le_withCancel`); a cancel comes at a frame boundary (`EndReason`). -/
theorem cancelledRunIsAPrefix : Obligations.CancelledRunIsAPrefix := by
  intro c e cs n m t u hv hc hpolls hrun hover hrun' hover'
  refine ⟨?_, fun hcause => ?_⟩
  · obtain ⟨-, hout, -⟩ := launch_runOver_contract hv hc hrun hover
    obtain ⟨-, hout', -⟩ := launch_runOver_contract (e := { e with cancel := cs }) hv hc hrun' hover'
    have huse : usableFrames { e with cancel := cs } = e.frames.length := by
      rw [usableFrames, cancelPoint_of_not_cancelled hpolls, Option.getD_none]
    have hcount := recordCount_le_withCancel c e cs (huse ▸ usableFrames_le e)
    rw [hout, hout', stream_withCancel]
    exact stream_prefix c e hcount
  · obtain ⟨rfl, rfl, k, -, hreason, hout⟩ := launch_runOver hv hc hrun hover
    simp only [EndReason, hcause] at hreason
    obtain ⟨⟨hk, -⟩, -⟩ := hreason
    rw [hout, stream_length, hk, Nat.mul_comm t.cfg.dup, Nat.mul_assoc]

/-- Settles O56: OUT is whole records, whose video parts the Reader cuts out (`readerParse_stream`) and unpacks
(`unpack_pack`). -/
theorem readerRecoversTheFrames : Obligations.ReaderRecoversTheFrames := by
  intro c e n t hv hc hrun hover
  obtain ⟨-, hout, -⟩ := launch_runOver_contract hv hc hrun hover
  rw [hout, readerParse_stream c e hv]
  refine ⟨?_, List.map_congr_left fun j hj => ?_⟩
  · rw [readerMismatch, stream_length, Nat.mul_mod_left]
    rfl
  · exact unpack_pack c _ (recordFrame_fits c e hc (List.mem_range.1 hj))

end Sys2Proof.Machine
end

section
/-! PROOFS of the obligations about PACK, CHUNK and COMMIT (spec/30_encoding.md R84 to R86): the packing theorem
(spec/40_packer.md section 3), the chunk theorem (spec/41_audio_quantizer.md section 3) and the commit
(spec/42_multiplexer.md section 2), each by one lemma for the operations of one bit, sample or byte, iterated. -/

namespace Sys2Proof.Machine

/-- The steps from `s` that execute exactly the operations `ops` lead to `t` (R83). -/
def Executes (s : State) (ops : List Instr) (t : State) : Prop :=
  runFor ops.length s = .next t ∧ opsOf ops.length s = ops

/-- A step of `s` executes the operation PH names: the setup conforms and reset is 0 (R18). -/
def Runnable (s : State) : Prop :=
  s.cfg.valid = true ∧ s.env.conforms s.cfg = true ∧ s.pins.reset = false

section
variable {s t u : State} {i : Instr}

/-- The operations of a trace do not depend on the number of its first line (R83). -/
theorem map_op_traceFrom (k m n : Nat) (s : State) :
    (traceFrom k m s).map TraceLine.op = (traceFrom k n s).map TraceLine.op := by
  induction k generalizing m n s with
  | zero => rfl
  | succ k ih =>
    simp only [traceFrom]
    cases step s with
    | next u =>
      cases operationAt s with
      | some i => exact congrArg (i :: ·) (ih (m + 1) (n + 1) u)
      | none => exact ih m n u
    | fault f => rfl
    | refused r => rfl

/-- The operations of some steps are that of the first, if it executes one, and those of the others (R83). -/
theorem opsOf_succ (k : Nat) (h : step s = .next u) : opsOf (k + 1) s = (operationAt s).toList ++ opsOf k u := by
  simp only [opsOf, traceFrom, h]
  cases operationAt s with
  | some i => exact congrArg (i :: ·) (map_op_traceFrom k 2 1 u)
  | none => rfl

/-- The operations of a run and its continuation (compare `runFor_add`). -/
theorem opsOf_add (m n : Nat) (h : runFor m s = .next t) : opsOf (m + n) s = opsOf m s ++ opsOf n t := by
  induction m generalizing s with
  | zero =>
    cases h
    rw [Nat.zero_add]
    rfl
  | succ m ih =>
    simp only [runFor] at h
    cases hs : step s with
    | next u =>
      rw [hs] at h
      rw [Nat.add_right_comm, opsOf_succ _ hs, opsOf_succ _ hs, ih h, List.append_assoc]
    | fault f => simp [hs] at h
    | refused r => simp [hs] at h

theorem Executes.nil (s : State) : Executes s [] s := ⟨rfl, rfl⟩

theorem Executes.append {xs ys : List Instr} (h : Executes s xs u) (h' : Executes u ys t) :
    Executes s (xs ++ ys) t := by
  obtain ⟨hrun, hops⟩ := h
  obtain ⟨hrun', hops'⟩ := h'
  refine ⟨?_, ?_⟩
  · rw [List.length_append, runFor_add _ _ hrun, hrun']
  · rw [List.length_append, opsOf_add _ _ hrun, hops, hops']

/-- The step of a state that is ready for it executes the operation PH names (R18). -/
theorem Runnable.executes (h : Runnable s) (hph : s.ph = encode i) (hx : exec i s = .next t) : Executes s [i] t := by
  obtain ⟨hv, hc, hreset⟩ := h
  have hstep : step s = .next t := (step_eq_exec i hv hc hreset hph).trans hx
  have hop : operationAt s = some i := by simp [operationAt, hreset, selected, hph]
  refine ⟨?_, ?_⟩
  · simp only [List.length_singleton, runFor, hstep]
  · rw [List.length_singleton, opsOf_succ 0 hstep, hop]
    rfl

/-- The operations of one round after another: what holds at the start of each round holds at the end of the last. -/
theorem executes_rounds {P : Nat → State → Prop} {ops : Nat → List Instr} {n : Nat} (h : P 0 s)
    (hround : ∀ j u, j < n → P j u → ∃ t, Executes u (ops j) t ∧ P (j + 1) t) :
    ∃ t, Executes s ((List.range n).flatMap ops) t ∧ P n t := by
  induction n with
  | zero => exact ⟨s, .nil s, h⟩
  | succ n ih =>
    obtain ⟨u, hu, hPu⟩ := ih fun j u hj => hround j u (Nat.lt_succ_of_lt hj)
    obtain ⟨t, ht, hPt⟩ := hround n u (Nat.lt_succ_self n) hPu
    refine ⟨t, ?_, hPt⟩
    rw [List.range_succ, List.flatMap_append, List.flatMap_singleton]
    exact hu.append ht

/-- Copies of a list of operations are as many rounds of it. -/
theorem flatten_replicate_eq (n : Nat) (ops : List Instr) :
    (List.replicate n ops).flatten = (List.range n).flatMap fun _ => ops := by
  rw [List.flatMap_def, List.map_const', List.length_range]

/-- Copies of an operation are as many rounds of it. -/
theorem replicate_eq_flatMap (n : Nat) (i : Instr) : List.replicate n i = (List.range n).flatMap fun _ => [i] := by
  rw [← List.map_eq_flatMap, List.map_const', List.length_range]

end

/-! The packer: position `i` of the traversal, after the pixels W*H for the pads, is in column and row `min i NPIX` div and
mod H. -/

section
variable {c : Cfg}

/-- The next position is the next pixel's (R92). -/
theorem advancePixel_position (i : Nat) (hh : 0 < c.h) :
    advancePixel c (i / c.h) (i % c.h) = ((i + 1) / c.h, (i + 1) % c.h) := by
  rw [advancePixel_eq]
  have hlt : i % c.h < c.h := Nat.mod_lt i hh
  split
  · next hlast =>
    rw [succ_eq_mul_of_last hlast, Nat.mul_div_cancel_left _ hh, Nat.mul_mod_right]
  · next hmore =>
    obtain ⟨hdiv, hmod⟩ := succ_div_mod_of_lt (k := i) (d := c.h) (by omega)
    rw [hdiv, hmod]

/-- The column of a position is W exactly after the last pixel (R93). -/
theorem column_eq_w_iff (i : Nat) (hh : 0 < c.h) : min i (npix c) / c.h = c.w ↔ npix c ≤ i := by
  constructor
  · intro hcol
    by_contra hlt
    rw [min_eq_left (by omega)] at hcol
    have hcol' : i / c.h < c.w := Nat.div_lt_of_lt_mul ((Nat.mul_comm c.w c.h) ▸ not_le.1 hlt)
    omega
  · intro hle
    rw [min_eq_right hle, npix, Nat.mul_div_cancel _ hh]

/-- The phase in which the packer stands at position `i` (R119): the pixels and the pads still to come, or what follows
the packing. -/
def packPhase (c : Cfg) (i : Nat) : Instr :=
  if i < npix c then .shift
  else if i < 8 * videoSize c then .pad
  else if chunkLen c = 0 then .wrv else .lda

/-- SHIFT goes to STB when the byte is full, and else to where the packer stands at the next position (R93). -/
theorem phase_after_shift {i : Nat} (hh : 0 < c.h) (hi : i < 8 * videoSize c) :
    (if i % 8 + 1 = 8 then .stb else if min (i + 1) (npix c) / c.h = c.w then .pad else .shift) =
      if i % 8 + 1 = 8 then Instr.stb else packPhase c (i + 1) := by
  split
  · rfl
  · next h8 =>
    have hmore : i + 1 < 8 * videoSize c := by omega
    simp only [column_eq_w_iff (i + 1) hh, packPhase, hmore, if_true]
    split
    · next hle => rw [if_neg hle.not_gt]
    · next hlt => rw [if_pos (not_le.1 hlt)]

/-- PAD goes to STB when the byte is full, and else to where the packer stands at the next position (R94). -/
theorem phase_after_pad {i : Nat} (hpix : npix c ≤ i) (hi : i < 8 * videoSize c) :
    (if i % 8 + 1 = 8 then .stb else .pad) = if i % 8 + 1 = 8 then Instr.stb else packPhase c (i + 1) := by
  split
  · rfl
  · have hmore : i + 1 < 8 * videoSize c := by omega
    rw [packPhase, if_neg (by omega), if_pos hmore]

/-- STB goes to where the packer stands at its position, the first of a byte or the end (R95). -/
theorem phase_after_stb {j : Nat} (hh : 0 < c.h) (hj : j ≤ videoSize c) :
    (if min (8 * j) (npix c) / c.h = c.w then (if chunkLen c = 0 then .wrv else .lda) else .shift) =
      packPhase c (8 * j) := by
  obtain ⟨hle, hlt⟩ := npix_le_videoSize c
  simp only [column_eq_w_iff (8 * j) hh, packPhase]
  split
  · have hend : ¬ 8 * j < 8 * videoSize c := by omega
    have hpix : ¬ 8 * j < npix c := by omega
    rw [if_neg hpix, if_neg hend]
  · next hpix => rw [if_pos (not_le.1 hpix)]

end

/-- The state of the packer at position `i` of the traversal, from the state `s` FETCH leaves: its registers and RB, with
no other field changed. -/
def State.packing (s : State) (i bc bi : Nat) (ph : Instr) (m : Memory) (v : Byte) : State :=
  { s with
    rb := m, sr := v, bc := bc, bi := bi, ph := encode ph,
    cx := min i (npix s.cfg) / s.cfg.h, ry := min i (npix s.cfg) % s.cfg.h }

/-- The packer of `b` stands at position `i`: `bc` bits are in SR and `bi` bytes in RB, and the cells past the record are
as they were (R96). -/
def PackingAt (s : State) (b : Bitmap) (i bc bi : Nat) (ph : Instr) (u : State) : Prop :=
  ∃ m v, u = s.packing i bc bi ph m v ∧ ShiftHolds u b ∧ RecordPrefix u b ∧
    ∀ j, videoSize s.cfg ≤ j → Memory.read m j = Memory.read s.rb j

section
variable {s u : State} {b : Bitmap} {i : Nat}

/-- SHIFT at a pixel's position shifts that bit of the traversal in (R93). -/
theorem execShift_packing (hv : s.cfg.valid = true) (hfb : s.fb = some b) (hfits : Bitmap.fits s.cfg b = true)
    (m : Memory) (v : Byte) (hpix : i < npix s.cfg) :
    execShift (s.packing i (i % 8) (i / 8) (packPhase s.cfg i) m v) =
      .next (s.packing (i + 1) (i % 8 + 1) (i / 8) (if i % 8 + 1 = 8 then .stb else packPhase s.cfg (i + 1)) m
        (shiftIn v (packBit s.cfg b i))) := by
  obtain ⟨-, hh, -⟩ := (Cfg_valid_iff s.cfg).1 hv
  have hroom := (npix_le_videoSize s.cfg).1
  have hmin : min i (npix s.cfg) = i := min_eq_left hpix.le
  have hmin' : min (i + 1) (npix s.cfg) = i + 1 := min_eq_left hpix
  have hcol : i / s.cfg.h < s.cfg.w := Nat.div_lt_of_lt_mul ((Nat.mul_comm s.cfg.w s.cfg.h) ▸ hpix)
  have hpixel : pixelOperand s.cfg s.fb (min i (npix s.cfg) % s.cfg.h) (min i (npix s.cfg) / s.cfg.h) =
      .ok (packBit s.cfg b i) := by
    rw [hfb, hmin, packBit_of_lt _ _ _ hpix]
    exact pixelOperand_of_fits s.cfg b hfits _ _ (Nat.mod_lt i hh) hcol
  rw [execShift_of_pixel _ _ hpixel, ← phase_after_shift hh (by omega)]
  simp only [State.goto, State.packing, hmin, hmin', advancePixel_position i hh]

/-- PAD at a pad's position shifts that bit of the traversal in, a zero (R94). -/
theorem execPad_packing (m : Memory) (v : Byte) (hpix : npix s.cfg ≤ i) (hi : i < 8 * videoSize s.cfg) :
    execPad (s.packing i (i % 8) (i / 8) (packPhase s.cfg i) m v) =
      .next (s.packing (i + 1) (i % 8 + 1) (i / 8) (if i % 8 + 1 = 8 then .stb else packPhase s.cfg (i + 1)) m
        (shiftIn v (packBit s.cfg b i))) := by
  have hmin : min i (npix s.cfg) = min (i + 1) (npix s.cfg) := by omega
  rw [execPad_eq, ← phase_after_pad hpix hi, packBit_of_le _ _ _ hpix]
  simp only [State.goto, State.packing, hmin]

/-- At every position of the traversal its bit is shifted in, a pixel by SHIFT, a pad by PAD (R93, R94). -/
theorem PackingAt.shift_bit (h : PackingAt s b i (i % 8) (i / 8) (packPhase s.cfg i) u) (hs : Runnable s)
    (hfb : s.fb = some b) (hfits : Bitmap.fits s.cfg b = true) (hi : i < 8 * videoSize s.cfg) :
    ∃ t, Executes u [if i < npix s.cfg then .shift else .pad] t ∧
      PackingAt s b (i + 1) (i % 8 + 1) (i / 8) (if i % 8 + 1 = 8 then .stb else packPhase s.cfg (i + 1)) t := by
  obtain ⟨m, v, rfl, hbits, hrecord, hrest⟩ := h
  have hbit : packBit s.cfg b i = packBit s.cfg b (8 * (i / 8) + i % 8) := by rw [Nat.div_add_mod]
  refine ⟨_, ?_, m, _, rfl,
    hbits.next_bit (Nat.le_of_lt_succ (Nat.mod_lt i (by decide))) hbit rfl rfl rfl rfl, hrecord, hrest⟩
  split
  · next hpix =>
    exact Runnable.executes hs (congrArg encode (if_pos hpix)) (execShift_packing hs.1 hfb hfits m v hpix)
  · next hpix =>
    have hphase : packPhase s.cfg i = .pad := by rw [packPhase, if_neg hpix, if_pos hi]
    exact Runnable.executes hs (congrArg encode hphase) (execPad_packing m v (not_lt.1 hpix) hi)

/-- STB stores the full byte, which is the record's next (R95, R96). -/
theorem PackingAt.store_byte {j : Nat} (h : PackingAt s b (8 * (j + 1)) 8 j .stb u) (hs : Runnable s)
    (hj : j < videoSize s.cfg) : ∃ t, Executes u [.stb] t ∧
      PackingAt s b (8 * (j + 1)) 0 (j + 1) (packPhase s.cfg (8 * (j + 1))) t := by
  have ⟨hv, _⟩ := hs
  obtain ⟨-, hh, -⟩ := (Cfg_valid_iff s.cfg).1 hv
  obtain ⟨m, v, rfl, hbits, hrecord, hrest⟩ := h
  have hbyte : v = packByte s.cfg b j := hbits.sr_eq_packByte rfl
  rw [← phase_after_stb hh hj]
  refine ⟨_, Runnable.executes hs rfl (execStb_of_lt _ hj), _, _, rfl, shiftHolds_of_cleared rfl rfl,
    hrecord.write rfl rfl (hbyte ▸ rfl), fun a ha => ?_⟩
  exact (Memory.read_write_other m j v a (by omega)).trans (hrest a ha)

/-- The operations of one position of the traversal lead the packer to the next (R84). -/
theorem PackingAt.next_position (h : PackingAt s b i (i % 8) (i / 8) (packPhase s.cfg i) u) (hs : Runnable s)
    (hfb : s.fb = some b) (hfits : Bitmap.fits s.cfg b = true) (hi : i < 8 * videoSize s.cfg) :
    ∃ t, Executes u (bitOps s.cfg i) t ∧
      PackingAt s b (i + 1) ((i + 1) % 8) ((i + 1) / 8) (packPhase s.cfg (i + 1)) t := by
  obtain ⟨w, hexec, hw⟩ := h.shift_bit hs hfb hfits hi
  by_cases h8 : i % 8 + 1 = 8
  · have hfull : i + 1 = 8 * (i / 8 + 1) := by omega
    have hmod : (i + 1) % 8 = 0 := by omega
    have hdiv : (i + 1) / 8 = i / 8 + 1 := by omega
    rw [if_pos h8, h8, hfull] at hw
    obtain ⟨t, hstore, ht⟩ := hw.store_byte hs (by omega)
    rw [← hfull] at ht
    rw [bitOps, if_pos hmod, hmod, hdiv]
    exact ⟨t, hexec.append hstore, ht⟩
  · have hmod : (i + 1) % 8 = i % 8 + 1 := by omega
    have hdiv : (i + 1) / 8 = i / 8 := by omega
    have hmore : ¬ (i + 1) % 8 = 0 := by omega
    rw [if_neg h8] at hw
    rw [bitOps, if_neg hmore, hmod, hdiv]
    exact ⟨w, hexec, hw⟩

end

section
variable {s : State}

/-- A state in which the packer's counters and PH are written with what they hold. -/
theorem eq_with_packer {ph : BitVec 4} {cx ry bc bi : Nat} (hph : s.ph = ph) (hcx : s.cx = cx) (hry : s.ry = ry)
    (hbc : s.bc = bc) (hbi : s.bi = bi) : s = { s with ph := ph, cx := cx, ry := ry, bc := bc, bi := bi } := by
  subst hph hcx hry hbc hbi
  rfl

/-- The state FETCH leaves is the packer's at the first position (R108). -/
theorem packing_start (hv : s.cfg.valid = true) (hph : s.ph = encode .shift) (hcx : s.cx = 0) (hry : s.ry = 0)
    (hbc : s.bc = 0) (hbi : s.bi = 0) : s = s.packing 0 0 0 (packPhase s.cfg 0) s.rb s.sr := by
  obtain ⟨hw, hh, -⟩ := (Cfg_valid_iff s.cfg).1 hv
  have hphase : packPhase s.cfg 0 = .shift := if_pos (Nat.mul_pos hw hh)
  rw [State.packing, hphase, Nat.zero_min, Nat.zero_div, Nat.zero_mod]
  exact eq_with_packer hph hcx hry hbc hbi

/-- At the last position the packer has used the frame up: the column is W and the row 0 (R42 (c)). -/
theorem packing_end (hv : s.cfg.valid = true) (hry : s.ry = 0) (hsr : s.sr = 0) (hbc : s.bc = 0) (m : Memory) :
    s.packing (8 * videoSize s.cfg) 0 (videoSize s.cfg) (packPhase s.cfg (8 * videoSize s.cfg)) m 0 = { s with
      rb := m, cx := s.cfg.w, bi := videoSize s.cfg,
      ph := if chunkLen s.cfg = 0 then encode .wrv else encode .lda } := by
  obtain ⟨-, hh, -⟩ := (Cfg_valid_iff s.cfg).1 hv
  have hroom := (npix_le_videoSize s.cfg).1
  have hphase : packPhase s.cfg (8 * videoSize s.cfg) = if chunkLen s.cfg = 0 then .wrv else .lda := by
    rw [packPhase, if_neg hroom.not_gt, if_neg (lt_irrefl _)]
  have hrow : npix s.cfg % s.cfg.h = 0 := Nat.mul_mod_left _ _
  rw [State.packing, (column_eq_w_iff _ hh).2 hroom, min_eq_right hroom, hrow, hphase, apply_ite encode, hry, hsr, hbc]

/-- The packing theorem (R96): from the state FETCH leaves PACK stores the packed frame. -/
theorem executes_packMacro {b : Bitmap} (hs : Runnable s) (hfb : s.fb = some b)
    (hfits : Bitmap.fits s.cfg b = true) (hph : s.ph = encode .shift) (hcx : s.cx = 0) (hry : s.ry = 0)
    (hsr : s.sr = 0) (hbc : s.bc = 0) (hbi : s.bi = 0) : ∃ m,
      Executes s (packMacro s.cfg) { s with
        rb := m, cx := s.cfg.w, bi := videoSize s.cfg,
        ph := if chunkLen s.cfg = 0 then encode .wrv else encode .lda } ∧
      (∀ j, j < videoSize s.cfg → Memory.read m j = some (packByte s.cfg b j)) ∧
      ∀ j, videoSize s.cfg ≤ j → Memory.read m j = Memory.read s.rb j := by
  have ⟨hv, _⟩ := hs
  have hstart : PackingAt s b 0 (0 % 8) (0 / 8) (packPhase s.cfg 0) s :=
    ⟨s.rb, s.sr, packing_start hv hph hcx hry hbc hbi, shiftHolds_of_cleared hbc hsr, fun j hj => by omega,
      fun _ _ => rfl⟩
  obtain ⟨t, hexec, hend⟩ :=
    executes_rounds (P := fun i u => PackingAt s b i (i % 8) (i / 8) (packPhase s.cfg i) u) hstart
      fun i u hi hu => hu.next_position hs hfb hfits hi
  rw [Nat.mul_mod_right, Nat.mul_div_cancel_left _ (by decide)] at hend
  obtain ⟨m, v, rfl, ⟨hcleared, -⟩, hrecord, hrest⟩ := hend
  obtain rfl : v = 0 := BitVec.eq_of_toNat_eq (Nat.lt_one_iff.1 hcleared)
  rw [← packMacro_eq, packing_end hv hry hsr hbc] at hexec
  exact ⟨m, hexec, hrecord, hrest⟩

end

/-- Settles O46: PACK is the packer's operations for the 8*VIDEO_SIZE positions (`packMacro_eq`), each of which leads to
the next (`PackingAt.next_position`). -/
theorem packingStoresThePackedRecord : Obligations.PackingStoresThePackedRecord := by
  intro s b hv hc hreset hph hfb hfits hcx hry hsr hbc hbi
  obtain ⟨m, ⟨hrun, hops⟩, hrecord, hrest⟩ :=
    executes_packMacro ⟨hv, hc, hreset⟩ hfb hfits hph hcx hry hsr hbc hbi
  rw [packMacro_length] at hrun hops
  exact ⟨m, hrun, fun j hj => (getElem?_pack _ _ _ hj).trans (hrecord j hj).symm, hrest, hops⟩

/-! The chunk: LDA and QNT once for each sample. -/

/-- The state `s` of LDA after `n` samples of the chunk: the audio registers, AB and the cursor, with no other field
changed. -/
def State.staging (s : State) (n : Nat) (m : Memory) (v : Byte) : State :=
  { s with
    ab := m, smp := v, ac := n, acur := s.acur + n,
    ph := encode (if n = chunkLen s.cfg then .wrv else .lda) }

/-- The state between LDA and QNT: one sample more is in SMP, and not yet in AB. -/
def State.sampled (s : State) (n : Nat) (m : Memory) (v : Byte) : State :=
  { s with ab := m, smp := v, ac := n, acur := s.acur + n + 1, ph := encode .qnt }

/-- `n` samples of the chunk are staged: AB holds them quantized, and SMP the last as it came (R103). -/
def StagedAt (s : State) (n : Nat) (u : State) : Prop :=
  ∃ m v, u = s.staging n m v ∧ (0 < n → s.env.audio[s.acur + n - 1]? = some v) ∧
    ∀ i, i < n → ∃ a, s.env.audio[s.acur + i]? = some a ∧ Memory.read m i = some (quant s.cfg a)

section
variable {s u : State} (hs : Runnable s)
include hs

/-- LDA and QNT stage the next sample (R101, R102). -/
theorem StagedAt.next_sample {n : Nat} (h : StagedAt s n u) (hn : n < chunkLen s.cfg)
    (hlen : s.acur + n < s.env.audio.length) : ∃ t, Executes u [.lda, .qnt] t ∧ StagedAt s (n + 1) t := by
  obtain ⟨m, v, rfl, -, hstaged⟩ := h
  have hlda : Executes (s.staging n m v) [.lda] (s.sampled n m s.env.audio[s.acur + n]) :=
    Runnable.executes hs (congrArg encode (if_neg hn.ne)) (execLda_of_lt (s.staging n m v) hlen)
  have hqnt : Executes (s.sampled n m s.env.audio[s.acur + n]) [.qnt]
      (s.staging (n + 1) (Memory.write m n (quant s.cfg s.env.audio[s.acur + n])) s.env.audio[s.acur + n]) :=
    Runnable.executes hs rfl (execQnt_of_lt (s.sampled n m s.env.audio[s.acur + n]) hn)
  refine ⟨_, hlda.append hqnt, _, _, rfl, fun _ => List.getElem?_eq_getElem hlen, fun i hi => ?_⟩
  obtain rfl | hi : i = n ∨ i < n := by omega
  · exact ⟨_, List.getElem?_eq_getElem hlen, Memory.read_write_same _ _ _⟩
  · obtain ⟨a, ha, hread⟩ := hstaged i hi
    exact ⟨a, ha, (Memory.read_write_other _ _ _ _ hi.ne).trans hread⟩

/-- As many samples of the chunk as the source has are staged (R103). -/
theorem exists_stagedAt {n : Nat} (hph : s.ph = encode .lda) (hac : s.ac = 0) (hN : 0 < chunkLen s.cfg)
    (hn : n ≤ chunkLen s.cfg) (hlen : s.acur + n ≤ s.env.audio.length) :
    ∃ t, Executes s (List.replicate n [.lda, .qnt]).flatten t ∧ StagedAt s n t := by
  have hstart : s = s.staging 0 s.ab s.smp := by
    rw [State.staging, if_neg hN.ne, Nat.add_zero, ← hph, ← hac]
  rw [flatten_replicate_eq]
  exact executes_rounds (P := StagedAt s) ⟨s.ab, s.smp, hstart, nofun, nofun⟩
    fun j u hj hu => hu.next_sample hs (by omega) (by omega)

end

/-- Settles O47: the samples the source has are staged one by one (`exists_stagedAt`); with fewer than N the next LDA has
the source's end (`execLda_of_short`, `execLda_of_fail`). -/
theorem chunkStagesTheSamples : Obligations.ChunkStagesTheSamples := by
  intro s hv hc hreset hph hac hN
  have hs : Runnable s := ⟨hv, hc, hreset⟩
  refine ⟨fun hlen => ?_, fun hle hshort => ?_⟩
  · obtain ⟨t, ⟨hrun, hops⟩, m, v, rfl, hlast, hstaged⟩ := exists_stagedAt hs hph hac hN le_rfl hlen
    rw [← chunkMacro, chunkMacro_length] at hrun hops
    rw [State.staging, if_pos rfl] at hrun
    exact ⟨m, v, hrun, hlast hN, hstaged, hops⟩
  · have hn : s.env.audio.length - s.acur < chunkLen s.cfg := by omega
    have hend : s.acur + (s.env.audio.length - s.acur) = s.env.audio.length := by omega
    obtain ⟨u, hexec, m, v, rfl, -⟩ := exists_stagedAt hs hph hac hN hn.le hend.le
    generalize s.env.audio.length - s.acur = n at hn hend hexec
    have hrun {t : State} (hx : exec .lda (s.staging n m v) = .next t) : runFor (2 * n + 1) s = .next t := by
      obtain ⟨hrun, -⟩ := hexec.append (Runnable.executes hs (congrArg encode (if_neg hn.ne)) hx)
      simpa [Nat.mul_comm] using hrun
    cases haend : s.env.aend with
    | short =>
      exact ⟨_, hrun (execLda_of_short (s.staging n m v) hend.ge haend), hend, rfl, rfl, rfl, rfl, fun _ => rfl,
        fun _ => ⟨rfl, rfl, rfl⟩, nofun⟩
    | fail =>
      exact ⟨_, hrun (execLda_of_fail (s.staging n m v) hend.ge haend), hend, rfl, rfl, rfl, rfl, fun _ => rfl,
        nofun, fun _ => ⟨rfl, rfl, rfl⟩⟩

/-! The commit: WRV once for each byte of the record buffer, WRA once for each of the audio buffer, and NXT. -/

/-- The state `s` of WRV after `j` bytes of the video record `v`: OUT, OC and the phase, with no other field changed. -/
def State.writingVideo (s : State) (v : List Byte) (j : Nat) : State :=
  { s with
    out := s.out ++ v.take j, oc := if j = videoSize s.cfg then 0 else j,
    ph := encode (if j = videoSize s.cfg then (if chunkLen s.cfg = 0 then .nxt else .wra) else .wrv) }

/-- The state `s` of WRA, at N = 0 of NXT, after `j` bytes of the Audio Chunk `a`: OUT, OC and the phase, with no other
field changed. -/
def State.writingAudio (s : State) (a : List Byte) (j : Nat) : State :=
  { s with
    out := s.out ++ a.take j, oc := if j = chunkLen s.cfg then 0 else j,
    ph := encode (if j = chunkLen s.cfg then .nxt else .wra) }

section
variable {s : State} {v a : List Byte} {j : Nat}

/-- WRV appends the next byte of the video record (R109). -/
theorem execWrv_writingVideo (hopen : s.isOpen = true) (hj : j < videoSize s.cfg) (hjv : j < v.length)
    (hread : Memory.read s.rb j = v[j]?) : execWrv (s.writingVideo v j) = .next (s.writingVideo v (j + 1)) := by
  have hoc : (s.writingVideo v j).oc = j := if_neg hj.ne
  have hcell : Memory.read (s.writingVideo v j).rb (s.writingVideo v j).oc = some v[j] := by
    rw [hoc, ← List.getElem?_eq_getElem hjv]
    exact hread
  rw [execWrv_of_cell (s.writingVideo v j) v[j] (hoc.trans_lt hj) hcell hopen, hoc]
  simp only [State.goto, State.writingVideo, List.append_assoc, List.take_append_getElem] <;> rfl

/-- WRA appends the next byte of the Audio Chunk (R110). -/
theorem execWra_writingAudio (hopen : s.isOpen = true) (hj : j < chunkLen s.cfg) (hja : j < a.length)
    (hread : Memory.read s.ab j = a[j]?) : execWra (s.writingAudio a j) = .next (s.writingAudio a (j + 1)) := by
  have hoc : (s.writingAudio a j).oc = j := if_neg hj.ne
  have hcell : Memory.read (s.writingAudio a j).ab (s.writingAudio a j).oc = some a[j] := by
    rw [hoc, ← List.getElem?_eq_getElem hja]
    exact hread
  rw [execWra_of_cell (s.writingAudio a j) a[j] (hoc.trans_lt hj) hcell hopen, hoc]
  simp only [State.goto, State.writingAudio, List.append_assoc, List.take_append_getElem] <;> rfl

/-- The WRVs of a commit append the video record (R86, R109). -/
theorem executes_wrv (hs : Runnable s) (hph : s.ph = encode .wrv) (hoc : s.oc = 0) (hopen : s.isOpen = true)
    (hlen : v.length = videoSize s.cfg) (hrb : ∀ j, j < videoSize s.cfg → Memory.read s.rb j = v[j]?) :
    Executes s (List.replicate (videoSize s.cfg) .wrv) (s.writingVideo v (videoSize s.cfg)) := by
  have hsize : 0 < videoSize s.cfg := videoSize_pos _ hs.1
  have hstart : s = s.writingVideo v 0 := by
    rw [State.writingVideo, if_neg hsize.ne, if_neg hsize.ne, List.take_zero, List.append_nil, ← hph, ← hoc]
  rw [replicate_eq_flatMap]
  obtain ⟨t, hexec, rfl⟩ := executes_rounds (P := fun j u => u = s.writingVideo v j) hstart fun j u hj hu => by
    have hx := execWrv_writingVideo hopen hj (hj.trans_eq hlen.symm) (hrb j hj)
    exact ⟨_, hu ▸ Runnable.executes (s := s.writingVideo v j) hs (congrArg encode (if_neg hj.ne)) hx, rfl⟩
  exact hexec

/-- The WRAs of a commit append the Audio Chunk (R86, R110). -/
theorem executes_wra (hs : Runnable s) (hopen : s.isOpen = true) (hlen : a.length = chunkLen s.cfg)
    (hab : ∀ j, j < chunkLen s.cfg → Memory.read s.ab j = a[j]?) :
    Executes (s.writingAudio a 0) (List.replicate (chunkLen s.cfg) .wra) (s.writingAudio a (chunkLen s.cfg)) := by
  rw [replicate_eq_flatMap]
  obtain ⟨t, hexec, rfl⟩ := executes_rounds (P := fun j u => u = s.writingAudio a j) rfl fun j u hj hu => by
    have hx := execWra_writingAudio hopen hj (hj.trans_eq hlen.symm) (hab j hj)
    exact ⟨_, hu ▸ Runnable.executes (s := s.writingAudio a j) hs (congrArg encode (if_neg hj.ne)) hx, rfl⟩
  exact hexec

/-- After the last WRV no byte of the chunk is out: WRA is next, or at N = 0 NXT (R109). -/
theorem writingVideo_end (hlen : v.length = videoSize s.cfg) :
    s.writingVideo v (videoSize s.cfg) = State.writingAudio { s with out := s.out ++ v } a 0 := by
  simp only [State.writingVideo, State.writingAudio, if_true, List.take_zero, List.append_nil, ← hlen, List.take_length,
    eq_comm (a := 0), ite_self]

/-- NXT after the last byte of the record counts it and goes on (R111). -/
theorem execNxt_writingAudio (hoc : s.oc = 0) (hlen : a.length = chunkLen s.cfg) :
    execNxt (s.writingAudio a (chunkLen s.cfg)) = .next { s with
      out := s.out ++ a, rc := s.rc + 1, ac := 0,
      dc := if s.dc + 1 = s.cfg.dup then 0 else s.dc + 1,
      ph := if s.dc + 1 = s.cfg.dup then encode .fetch
        else if chunkLen s.cfg = 0 then encode .wrv else encode .lda } := by
  obtain ⟨hlast, hmore, -⟩ := nxtCountsTheRecord
  have hout : a.take (chunkLen s.cfg) = a := List.take_of_length_le hlen.le
  by_cases hdc : s.dc + 1 = s.cfg.dup
  · refine (hlast (s.writingAudio a (chunkLen s.cfg)) hdc).trans ?_
    simp only [State.writingAudio, if_true, hdc, hoc, hout]
  · refine (hmore (s.writingAudio a (chunkLen s.cfg)) hdc).trans ?_
    simp only [State.writingAudio, if_true, hdc, if_false, hoc, hout]

/-- The commit (R117): COMMIT appends the staged record, counts it and goes on. -/
theorem executes_commitMacro (hs : Runnable s) (hph : s.ph = encode .wrv) (hoc : s.oc = 0) (hopen : s.isOpen = true)
    (hv : v.length = videoSize s.cfg) (ha : a.length = chunkLen s.cfg)
    (hrb : ∀ j, j < videoSize s.cfg → Memory.read s.rb j = v[j]?)
    (hab : ∀ j, j < chunkLen s.cfg → Memory.read s.ab j = a[j]?) :
    Executes s (commitMacro s.cfg) { s with
      out := s.out ++ v ++ a, rc := s.rc + 1, ac := 0,
      dc := if s.dc + 1 = s.cfg.dup then 0 else s.dc + 1,
      ph := if s.dc + 1 = s.cfg.dup then encode .fetch
        else if chunkLen s.cfg = 0 then encode .wrv else encode .lda } := by
  have hvideo := executes_wrv hs hph hoc hopen hv hrb
  rw [writingVideo_end (a := a) hv] at hvideo
  have haudio := executes_wra (s := { s with out := s.out ++ v }) hs hopen ha hab
  have hnxt := execNxt_writingAudio (s := { s with out := s.out ++ v }) hoc ha
  exact (hvideo.append haudio).append (Runnable.executes hs (congrArg encode (if_pos rfl)) hnxt)

end

/-- Settles O48: the commit is `executes_commitMacro`, and COMMIT is VIDEO_SIZE + N + 1 operations long. -/
theorem commitWritesTheStagedRecord : Obligations.CommitWritesTheStagedRecord := by
  intro s v a hvalid hc hreset hph hoc hopen hv ha hrb hab
  have hexec := executes_commitMacro ⟨hvalid, hc, hreset⟩ hph hoc hopen hv ha hrb hab
  rwa [Executes, commitMacro_length] at hexec

end Sys2Proof.Machine
end

section
/-! PROOFS of the obligation about the composite operation RUN (spec/30_encoding.md R89): a run with enough audio and no
cancel, record by record and frame by frame. Between two composite operations the state meets the invariants with a known
number of records out. -/

namespace Sys2Proof.Machine

/-- A state of a run of `c` in `e` between two composite operations, with `k` records out and nothing of the next. -/
structure BetweenMacros (c : Cfg) (e : Env) (k : Nat) (s : State) : Prop where
  cfg : s.cfg = c
  env : s.env = e
  inv : Inv k s
  stream : StreamInv k s
  reset : s.pins.reset = false
  oc : s.oc = 0
  phase : ∃ i, s.ph = encode i ∧ i ∉ [.wra, .nxt]

/-- The state before a frame: at FETCH, with `k` records out (R88). -/
def AtFetch (c : Cfg) (e : Env) (k : Nat) (s : State) : Prop :=
  BetweenMacros c e k s ∧ s.ph = encode .fetch

/-- The state before record `k`: the frame is packed, and nothing of the chunk staged (R87). -/
def AtRecord (c : Cfg) (e : Env) (k : Nat) (s : State) : Prop :=
  BetweenMacros c e k s ∧ s.ac = 0 ∧ s.ph = encode (if chunkLen c = 0 then .wrv else .lda)

section
variable {c : Cfg} {e : Env} {k : Nat} {s t : State}

theorem BetweenMacros.runnable (h : BetweenMacros c e k s) : Runnable s :=
  ⟨h.inv.setup.1, h.inv.setup.2, h.reset⟩

/-- Where OC is 0 and neither WRA nor NXT is next no byte of the record being made is out (R42 (g)). -/
theorem partialLength_of_oc {i : Instr} (hoc : s.oc = 0) (hi : i ∉ [.wra, .nxt]) : partialLength i s = 0 := by
  cases i with
  | wra => exact absurd hi (by decide)
  | nxt => exact absurd hi (by decide)
  | wrv => exact hoc
  | _ => rfl

/-- Between two composite operations OUT is `k` records long (R42 (g)). -/
theorem BetweenMacros.out_length (h : BetweenMacros c e k s) : s.out.length = k * recordSize c := by
  obtain ⟨i, hph, hi⟩ := h.phase
  obtain ⟨-, -, -, ⟨hlen, -⟩, -⟩ := h.inv.clauses_at i hph
  rw [hlen, partialLength_of_oc h.oc hi, h.cfg, Nat.add_zero]

/-- After a composite operation that puts `d` records more in OUT: the invariants hold for some count, and the length
of OUT says which. -/
theorem BetweenMacros.after {ops : List Instr} {i : Instr} {d : Nat} (h : BetweenMacros c e k s)
    (hexec : Executes s ops t) (hlen : t.out.length = s.out.length + d * recordSize c) (hoc : t.oc = 0)
    (hph : t.ph = encode i) (hi : i ∉ [.wra, .nxt]) : BetweenMacros c e (k + d) t := by
  obtain ⟨hrun, -⟩ := hexec
  obtain ⟨hcfg, henv, k', hinv, hstream⟩ := runFor_keeps h.inv h.stream hrun
  have hreset : t.pins.reset = false := (congrArg Pins.reset (runFor_keeps_pins hrun)).trans h.reset
  have ht : BetweenMacros c e k' t :=
    ⟨hcfg.trans h.cfg, henv.trans h.env, hinv, hstream, hreset, hoc, i, hph, hi⟩
  have hcount : k' * recordSize c = (k + d) * recordSize c := by
    rw [← ht.out_length, hlen, h.out_length, Nat.add_mul]
  have hv : c.valid = true := h.cfg ▸ h.inv.setup.1
  rwa [← Nat.eq_of_mul_eq_mul_right (recordSize_pos hv) hcount]

/-- The phase before a record is not within its commit (R87). -/
theorem record_phase_not_mem (c : Cfg) : (if chunkLen c = 0 then Instr.wrv else .lda) ∉ [.wra, .nxt] := by
  split
  · decide
  · decide

/-- A run begins with IDLE, which leads to the first frame (R89, R107). -/
theorem executes_idle (hv : c.valid = true) (hc : e.conforms c = true) :
    ∃ t, Executes (State.launch c e) [.idle] t ∧ AtFetch c e 0 t := by
  have hstart : BetweenMacros c e 0 (State.launch c e) :=
    ⟨rfl, rfl, inv_resetWith c e _ hv hc, streamInv_resetWith c e _, rfl, rfl, .idle, rfl, by decide⟩
  have hexec := hstart.runnable.executes (i := .idle) rfl (execIdle_of_start (State.launch c e) rfl)
  exact ⟨_, hexec, hstart.after (i := .fetch) (d := 0) hexec (by simp) rfl rfl (by decide), rfl⟩

/-- FETCH stands at a frame boundary: its frame is the one after those of the records out, and POLL counts with it. -/
theorem AtFetch.cursors (h : AtFetch c e k s) : k = c.dup * s.vcur ∧ s.poll = s.vcur := by
  obtain ⟨hb, hph⟩ := h
  obtain ⟨⟨hk, -, -, hpoll, -⟩, -⟩ := hb.stream.clauses_at .fetch hph
  exact ⟨hb.cfg ▸ hk, hpoll⟩

/-- FETCH and PACK lead from a frame boundary to the frame's first record (R88). -/
theorem AtFetch.executes_pack (h : AtFetch c e k s) (hlt : s.vcur < e.frames.length)
    (hpolls : NotCancelledBefore e (e.frames.length + 1)) :
    ∃ t, Executes s ([.fetch] ++ packMacro c) t ∧ AtRecord c e k t := by
  obtain ⟨-, hpoll⟩ := h.cursors
  obtain ⟨hb, hph⟩ := h
  have hs := hb.runnable
  obtain rfl := hb.cfg
  obtain rfl := hb.env
  have hc : cancelAt s.env s.poll = false := hpoll ▸ hpolls s.vcur (by omega)
  have hfits : Bitmap.fits s.cfg s.env.frames[s.vcur] = true :=
    conforms_fits s.cfg s.env hs.2.1 _ (List.getElem_mem hlt)
  have hfetch := hs.executes hph (execFetch_of_lt s hlt hc)
  obtain ⟨m, hpack, -⟩ := executes_packMacro (s := ({ s with poll := s.poll + 1, vcur := s.vcur + 1 }.loadFrame
    s.env.frames[s.vcur]).goto .shift) hs rfl hfits rfl rfl rfl rfl rfl rfl
  have hexec := hfetch.append hpack
  have hrecord := (apply_ite encode (chunkLen s.cfg = 0) .wrv .lda).symm
  exact ⟨_, hexec, hb.after (d := 0) hexec (by simp) rfl hrecord (record_phase_not_mem s.cfg), rfl, hrecord⟩

/-- CHUNK leads to the commit, if the source has the record's samples (R85). -/
theorem AtRecord.executes_chunk (h : AtRecord c e k s) (haudio : (k + 1) * chunkLen c ≤ e.audio.length) :
    ∃ t, Executes s (chunkMacro c) t ∧ BetweenMacros c e k t ∧ t.ph = encode .wrv := by
  obtain ⟨hb, hac, hph⟩ := h
  obtain rfl := hb.cfg
  obtain rfl := hb.env
  by_cases hN : chunkLen s.cfg = 0
  · rw [if_pos hN] at hph
    rw [chunkMacro, hN, List.replicate_zero, List.flatten_nil]
    exact ⟨s, .nil s, hb, hph⟩
  · rw [if_neg hN] at hph
    obtain ⟨-, -, ⟨-, hacur, -⟩, -⟩ := hb.inv.clauses_at .lda hph
    have hlen : s.acur + chunkLen s.cfg ≤ s.env.audio.length := by
      rwa [hacur, hac, Nat.add_zero, ← Nat.succ_mul]
    obtain ⟨t, hexec, m, v, rfl, -⟩ :=
      exists_stagedAt hb.runnable hph hac (Nat.pos_of_ne_zero hN) le_rfl hlen
    have hwrv : (s.staging (chunkLen s.cfg) m v).ph = encode .wrv := congrArg encode (if_pos rfl)
    have hout : (s.staging (chunkLen s.cfg) m v).out.length = s.out.length + 0 * recordSize s.cfg := by
      rw [Nat.zero_mul, Nat.add_zero, State.staging]
    exact ⟨_, hexec, hb.after hexec hout hb.oc hwrv (by decide), hwrv⟩

/-- COMMIT writes record `k`, and leads to the frame's next record, or to the next frame (R86, R111). -/
theorem BetweenMacros.executes_commit (hb : BetweenMacros c e k s) (hph : s.ph = encode .wrv) :
    ∃ t, Executes s (commitMacro c) t ∧
      if k % c.dup + 1 = c.dup then AtFetch c e (k + 1) t else AtRecord c e (k + 1) t := by
  obtain rfl := hb.cfg
  obtain rfl := hb.env
  obtain ⟨-, ⟨b, -, hrecord, -, -, -, -, hbi⟩, ⟨hac, -⟩, -, -, hopen⟩ := hb.inv.clauses_at .wrv hph
  obtain ⟨⟨⟨-, -, hdc, -⟩, -, hchunk⟩, -⟩ := hb.stream.clauses_at .wrv hph
  have hrb (j : Nat) (hj : j < videoSize s.cfg) : Memory.read s.rb j = (pack s.cfg b)[j]? := by
    rw [getElem?_pack _ _ _ hj, hrecord j (hbi ▸ hj)]
  have hab (j : Nat) (hj : j < chunkLen s.cfg) : Memory.read s.ab j = (audioChunk s.cfg s.env k)[j]? := by
    rw [getElem?_audioChunk _ hj, hchunk j (hac ▸ hj)]
  have hexec := executes_commitMacro hb.runnable hph hb.oc hopen (pack_length s.cfg b)
    (audioChunk_length s.cfg s.env k) hrb hab
  have hout : (s.out ++ pack s.cfg b ++ audioChunk s.cfg s.env k).length = s.out.length + 1 * recordSize s.cfg := by
    rw [List.length_append, List.length_append, pack_length, audioChunk_length, Nat.one_mul, recordSize, Nat.add_assoc]
  rw [← hdc]
  by_cases hlast : s.dc + 1 = s.cfg.dup
  · rw [if_pos hlast, if_pos hlast] at hexec
    refine ⟨_, hexec, ?_⟩
    rw [if_pos hlast]
    exact ⟨hb.after (i := .fetch) hexec hout hb.oc rfl (by decide), rfl⟩
  · have hnext := (apply_ite encode (chunkLen s.cfg = 0) .wrv .lda).symm
    rw [if_neg hlast, if_neg hlast] at hexec
    refine ⟨_, hexec, ?_⟩
    rw [if_neg hlast]
    exact ⟨hb.after hexec hout hb.oc hnext (record_phase_not_mem s.cfg), rfl, hnext⟩

/-- RECORD leads from record `k` to the frame's next record, or to the next frame (R87). -/
theorem AtRecord.executes_record (h : AtRecord c e k s) (haudio : (k + 1) * chunkLen c ≤ e.audio.length) :
    ∃ t, Executes s (recordMacro c) t ∧
      if k % c.dup + 1 = c.dup then AtFetch c e (k + 1) t else AtRecord c e (k + 1) t := by
  obtain ⟨u, hchunk, hu, hph⟩ := h.executes_chunk haudio
  obtain ⟨t, hcommit, ht⟩ := hu.executes_commit hph
  exact ⟨t, hchunk.append hcommit, ht⟩

end

section
variable {c : Cfg} {e : Env} {s : State} (hpolls : NotCancelledBefore e (e.frames.length + 1))
  (haudio : c.dup * e.frames.length * chunkLen c ≤ e.audio.length)
include hpolls haudio

/-- FRAME leads from a frame boundary to the next: FETCH, PACK and DUP records (R88). -/
theorem AtFetch.executes_frame {f : Nat} (h : AtFetch c e (c.dup * f) s) (hf : f < e.frames.length) :
    ∃ t, Executes s (frameMacro c) t ∧ AtFetch c e (c.dup * (f + 1)) t := by
  obtain ⟨hcount, -⟩ := h.cursors
  have hdup : 0 < c.dup := dup_pos (h.1.cfg ▸ h.1.inv.setup.1)
  obtain rfl : f = s.vcur := Nat.eq_of_mul_eq_mul_left hdup hcount
  obtain ⟨u, hpack, hu⟩ := h.executes_pack hf hpolls
  have hstart : if 0 = c.dup then AtFetch c e (c.dup * s.vcur + 0) u else AtRecord c e (c.dup * s.vcur + 0) u := by
    rwa [if_neg hdup.ne]
  obtain ⟨t, hrecords, ht⟩ := executes_rounds
    (P := fun j u => if j = c.dup then AtFetch c e (c.dup * s.vcur + j) u else AtRecord c e (c.dup * s.vcur + j) u)
    (ops := fun _ => recordMacro c) hstart fun j u hj hu => by
      rw [if_neg hj.ne] at hu
      have hle : c.dup * s.vcur + j + 1 ≤ c.dup * e.frames.length :=
        calc c.dup * s.vcur + j + 1 ≤ c.dup * (s.vcur + 1) := by rw [Nat.mul_succ]; omega
          _ ≤ c.dup * e.frames.length := Nat.mul_le_mul_left _ hf
      have hmod : (c.dup * s.vcur + j) % c.dup = j := by rw [Nat.mul_add_mod, Nat.mod_eq_of_lt hj]
      have hrecord := hu.executes_record ((Nat.mul_le_mul_right _ hle).trans haudio)
      rwa [hmod] at hrecord
  rw [if_pos rfl] at ht
  rw [frameMacro, flatten_replicate_eq]
  exact ⟨t, hpack.append hrecords, ht⟩

/-- RUN(NF) leads from the launch state to END (R89). -/
theorem executes_runMacro (hv : c.valid = true) (hc : e.conforms c = true) (hend : e.vend = .eos) :
    ∃ t, Executes (State.launch c e) (runMacro c e.frames.length) t ∧ t.ph = encode .endPhase := by
  obtain ⟨s, hidle, hs⟩ := executes_idle hv hc
  obtain ⟨u, hframes, hu⟩ := executes_rounds (P := fun f u => AtFetch c e (c.dup * f) u)
    (ops := fun _ => frameMacro c) hs fun f u hf hu => hu.executes_frame hpolls haudio hf
  obtain ⟨hcount, hpoll⟩ := hu.cursors
  have hvcur : e.frames.length = u.vcur := Nat.eq_of_mul_eq_mul_left (dup_pos hv) hcount
  obtain ⟨hb, hph⟩ := hu
  obtain rfl := hb.env
  have hcancel : cancelAt u.env u.poll = false := hpolls u.poll (by omega)
  have hfetch := hb.runnable.executes hph (execFetch_of_eos u hcancel hvcur.le hend)
  have hhlt := Runnable.executes (i := .hlt) (s := { u with poll := u.poll + 1 }.terminate .videoExhausted)
    hb.runnable rfl (execHlt_eq _)
  rw [runMacro, flatten_replicate_eq]
  exact ⟨_, (hidle.append hframes).append (hfetch.append hhlt), rfl⟩

end

/-- With EOS, no cancel and the audio of all its records a run ends for the video's sake, after them (R124, R125). -/
theorem contract_of_complete {c : Cfg} {e : Env} (hpolls : NotCancelledBefore e (e.frames.length + 1))
    (hend : e.vend = .eos) (haudio : c.dup * e.frames.length * chunkLen c ≤ e.audio.length) :
    endCause c e = .vend ∧ recordCount c e = c.dup * e.frames.length := by
  have hnone : cancelPoint e = none := cancelPoint_of_not_cancelled hpolls
  have hrecords : videoRecords c e = c.dup * e.frames.length := by
    rw [videoRecords, usableFrames, hnone, Option.getD_none]
  have hends : videoSideEnds c e = true := by rwa [videoSideEnds_iff, hrecords]
  refine ⟨?_, (recordCount_of_videoSide hends).trans hrecords⟩
  simp only [endCause, hends, if_true, hnone, hend]

/-- Settles O51: the run executes RUN(NF) and is then in END (`executes_runMacro`), so it is over and in the state the
contract gives (`launch_runOver_contract`). -/
theorem completeRunIsTheRunMacro : Obligations.CompleteRunIsTheRunMacro := by
  intro c e hv hc hpolls hend haudio
  obtain ⟨t, ⟨hrun, hops⟩, hph⟩ := executes_runMacro hpolls haudio hv hc hend
  obtain ⟨hcause, hcount⟩ := contract_of_complete hpolls hend haudio
  obtain ⟨-, hout, -, -, hstatus, -⟩ := launch_runOver_contract hv hc hrun (.inl hph)
  rw [hcause] at hstatus
  rw [hcount] at hout
  have hword : hostStatus t = 0x12#8 := by
    rw [hostStatus, hstatus]
    decide
  exact ⟨_, t, rfl, hrun, hops, hph, congrArg Status.cause hstatus, hword, hout⟩

end Sys2Proof.Machine
end
